-- ==== Sys2Proof/Word.lean ====
section
/-! DEFINITION. The CFT's unit of storage and transfer (20_memory.md R52): the 16-bit word. -/

namespace Sys2Proof

/-- A 16-bit word, also an address of memory space or of I/O space (00_scope.md R6, R9). -/
abbrev Word := BitVec 16

/-- Half a word. The CFT cannot name one (20_memory.md R52, R53); only the model's own layout of
memory uses it (log 5). -/
abbrev Byte := BitVec 8

/-- The 10-bit operand field of an instruction (30_encoding.md R81). -/
abbrev Field := BitVec 10

end Sys2Proof
end

