-- ==== Sys2Proof/Syntax.lean ====
section
/-! DEFINITION. The instructions as syntax: one constructor of `Instr` for each row of
spec/opcode_table.json. Several rows name the same words; log 21 says which constructor the decoder
answers for each word, and Sys2Proof/WellFormed.lean singles those constructors out. -/

namespace Sys2Proof

/-- The roll field of OP1, operand bits 2:0 (30_encoding.md R85): none or exactly one of the four
rolls (45_op1.md R181). -/
inductive Roll where
  /-- 000: no roll. -/
  | none
  /-- 010: Roll Bit Left (R177). -/
  | rbl
  /-- 001: Roll Bit Right (R178). -/
  | rbr
  /-- 110: Roll Nybble Left (R179). -/
  | rnl
  /-- 101: Roll Nybble Right (R180). -/
  | rnr
deriving DecidableEq, Repr

/-- The minor operations one OP1 word selects (45_op1.md R170, R183). -/
structure Op1Bits where
  /-- operand bit 9, Clear A -/
  cla : Bool := false
  /-- operand bit 8, Clear L -/
  cll : Bool := false
  /-- operand bit 7, Complement A -/
  not : Bool := false
  /-- operand bit 6, Increment (L,A) -/
  inc : Bool := false
  /-- operand bit 5, Complement L -/
  cpl : Bool := false
  /-- operand bits 2:0, the roll -/
  roll : Roll := .none
deriving DecidableEq, Repr

/-- The minor operations one OP2 word selects (46_op2.md R190, R205). -/
structure Op2Bits where
  /-- operand bit 6, Clear A -/
  cla2 : Bool := false
  /-- operand bit 5, clear I -/
  cli : Bool := false
  /-- operand bit 4, set I -/
  sti : Bool := false
  /-- operand bit 3, the group: false is G1, true is G2 (30_encoding.md R86) -/
  g2 : Bool := false
  /-- operand bit 2, the test of the sign of A -/
  testN : Bool := false
  /-- operand bit 1, the test of A against zero -/
  testZ : Bool := false
  /-- operand bit 0, the test of L -/
  testL : Bool := false
deriving DecidableEq, Repr

/-- The instructions. `ind` is the I bit (bit 11, true = indirect), `rel` the R bit (bit 10, true =
page-relative), `f` the operand field (30_encoding.md R81). `ign` holds the bits that the row does
not look at (bits 11:10 of OP1 and OP2, R93; bit 11 of LIA, R94), so that no bit of a word is lost. -/
inductive Instr where
  /-- TRAP, 44_flow_control.md R160 -/
  | trap (ind rel : Bool) (f : Field)
  /-- IOT, 42_io.md R142 -/
  | iot (ind rel : Bool) (f : Field)
  /-- LOAD, 41_memory_load_store.md R130 -/
  | load (ind rel : Bool) (f : Field)
  /-- STORE, 41_memory_load_store.md R131 -/
  | store (ind rel : Bool) (f : Field)
  /-- IN, 42_io.md R140 -/
  | inp (ind rel : Bool) (f : Field)
  /-- OUT, 42_io.md R141 -/
  | out (ind rel : Bool) (f : Field)
  /-- JMP, 44_flow_control.md R161 -/
  | jmp (ind rel : Bool) (f : Field)
  /-- JSR, 44_flow_control.md R162 -/
  | jsr (ind rel : Bool) (f : Field)
  /-- ADD, 43_arithmetic_logic.md R150 -/
  | add (ind rel : Bool) (f : Field)
  /-- AND, 43_arithmetic_logic.md R151 -/
  | and (ind rel : Bool) (f : Field)
  /-- OR, 43_arithmetic_logic.md R152 -/
  | or (ind rel : Bool) (f : Field)
  /-- XOR, 43_arithmetic_logic.md R153 -/
  | xor (ind rel : Bool) (f : Field)
  /-- OP1 with a combination that has no mnemonic of its own, 45_op1.md R183 -/
  | op1 (ign : BitVec 2) (m : Op1Bits)
  /-- NOP, 45_op1.md R171 -/
  | nop (ign : BitVec 2)
  /-- CLA alone, 45_op1.md R172 -/
  | cla (ign : BitVec 2)
  /-- CLL alone, 45_op1.md R173 -/
  | cll (ign : BitVec 2)
  /-- NOT alone, 45_op1.md R174 -/
  | not (ign : BitVec 2)
  /-- INC alone, 45_op1.md R175 -/
  | inc (ign : BitVec 2)
  /-- CPL alone, 45_op1.md R176 -/
  | cpl (ign : BitVec 2)
  /-- RBL alone, 45_op1.md R177 -/
  | rbl (ign : BitVec 2)
  /-- RBR alone, 45_op1.md R178 -/
  | rbr (ign : BitVec 2)
  /-- RNL alone, 45_op1.md R179 -/
  | rnl (ign : BitVec 2)
  /-- RNR alone, 45_op1.md R180 -/
  | rnr (ign : BitVec 2)
  /-- OP2 with a combination that has no mnemonic of its own, 46_op2.md R205 -/
  | op2 (ign : BitVec 2) (m : Op2Bits)
  /-- NOP2, 46_op2.md R191 -/
  | nop2 (ign : BitVec 2)
  /-- SNA alone, 46_op2.md R192 -/
  | sna (ign : BitVec 2)
  /-- SZA alone, 46_op2.md R193 -/
  | sza (ign : BitVec 2)
  /-- SSL alone, 46_op2.md R194 -/
  | ssl (ign : BitVec 2)
  /-- SKIP alone, 46_op2.md R195 -/
  | skip (ign : BitVec 2)
  /-- SNN alone, 46_op2.md R196 -/
  | snn (ign : BitVec 2)
  /-- SNZ alone, 46_op2.md R197 -/
  | snz (ign : BitVec 2)
  /-- SCL alone, 46_op2.md R198 -/
  | scl (ign : BitVec 2)
  /-- CLA2 alone, 46_op2.md R200 -/
  | cla2 (ign : BitVec 2)
  /-- CLI alone, 46_op2.md R201 -/
  | cli (ign : BitVec 2)
  /-- STI alone, 46_op2.md R202 -/
  | sti (ign : BitVec 2)
  /-- RESERVED_E, opcode 1110 with its twelve other bits, 30_encoding.md R90 -/
  | reservedE (bits : BitVec 12)
  /-- LIA, 47_lia.md R210 -/
  | lia (ign rel : Bool) (f : Field)
  /-- LI, LIA with R = 0, 47_lia.md R211 -/
  | li (ign : Bool) (f : Field)
  /-- RET, JMP I R 0000, 48_assembler_and_macros.md R219 -/
  | ret
  /-- RTT, JMP I R 0001, 48_assembler_and_macros.md R220 -/
  | rtt
  /-- NEG, OP1 NOT INC, 48_assembler_and_macros.md R221 -/
  | neg (ign : BitVec 2)
  /-- ING, OP1 NOT, 48_assembler_and_macros.md R222 -/
  | ing (ign : BitVec 2)
  /-- SBL, OP1 CLL RBL, 48_assembler_and_macros.md R226 -/
  | sbl (ign : BitVec 2)
  /-- SBR, OP1 CLL RBR, 48_assembler_and_macros.md R227 -/
  | sbr (ign : BitVec 2)
  /-- SNL, OP1 CLL RNL, 48_assembler_and_macros.md R228 -/
  | snl (ign : BitVec 2)
  /-- SNR, OP1 CLL RNR, 48_assembler_and_macros.md R229 -/
  | snr (ign : BitVec 2)
  /-- SNP, OP2 SNA SZA, 48_assembler_and_macros.md R225 -/
  | snp (ign : BitVec 2)
  /-- SPA, OP2 SNN SNZ, 48_assembler_and_macros.md R224 -/
  | spa (ign : BitVec 2)
deriving DecidableEq, Repr

end Sys2Proof
end

