-- ==== Sys2Proof/WellFormed.lean ====
section
/-! DEFINITION. Which constructor is the one the decoder answers for its word. Where two rows of the
opcode table name the same word, one of them is the word's own constructor and the other is a second
name of it (log 21): a well-formed instruction is written with the first. -/

namespace Sys2Proof

/-- The OP1 combinations that have a row, and so a constructor, of their own (30_encoding.md R85 and
the macros of R87). -/
def op1Named : List Op1Bits :=
  [{}, { cla := true }, { cll := true }, { not := true }, { inc := true }, { cpl := true },
   { roll := .rbl }, { roll := .rbr }, { roll := .rnl }, { roll := .rnr },
   { not := true, inc := true },
   { cll := true, roll := .rbl }, { cll := true, roll := .rbr },
   { cll := true, roll := .rnl }, { cll := true, roll := .rnr }]

/-- The OP2 combinations that have a row, and so a constructor, of their own (30_encoding.md R86 and
the macros of R87). -/
def op2Named : List Op2Bits :=
  [{}, { testN := true }, { testZ := true }, { testL := true },
   { g2 := true }, { g2 := true, testN := true }, { g2 := true, testZ := true },
   { g2 := true, testL := true },
   { cla2 := true }, { cli := true }, { sti := true },
   { testN := true, testZ := true }, { g2 := true, testN := true, testZ := true }]

/-- The constructor is the one its word decodes to. The five checks: `jmp` is not the word of RET or
RTT (R219, R220); `op1` and `op2` are not a combination with its own row; `lia` has R = 1 (with R = 0
it "becomes the Load Immediate (LI) instruction", R210); `ing` is NOT's word (R222). -/
def Instr.wellFormed : Instr → Bool
  | .jmp ind rel f => !(ind && !rel && (f == 0#10 || f == 1#10))
  | .op1 _ m => !(op1Named.contains m)
  | .op2 _ m => !(op2Named.contains m)
  | .lia _ rel _ => rel
  | .ing _ => false
  | .trap .. | .iot .. | .load .. | .store .. | .inp .. | .out .. | .jsr .. => true
  | .add .. | .and .. | .or .. | .xor .. => true
  | .nop _ | .cla _ | .cll _ | .not _ | .inc _ | .cpl _ => true
  | .rbl _ | .rbr _ | .rnl _ | .rnr _ => true
  | .nop2 _ | .sna _ | .sza _ | .ssl _ | .skip _ | .snn _ | .snz _ | .scl _ => true
  | .cla2 _ | .cli _ | .sti _ => true
  | .reservedE _ => true
  | .li .. => true
  | .ret | .rtt => true
  | .neg _ | .sbl _ | .sbr _ | .snl _ | .snr _ | .snp _ | .spa _ => true

end Sys2Proof
end

