-- ==== Sys2Proof/Decode.lean ====
section
/-! DEFINITION. The decoder (30_encoding.md R97), total on every word and rejecting by name, then the
encoder, written from the encodings of R81 to R86. -/

namespace Sys2Proof

/-- Why a word has no instruction. Opcode 1110 is no such word: it is the row RESERVED_E, an
instruction whose meaning refuses. -/
inductive DecodeError where
  /-- an OP1 word with operand bit 4 or 3 set, or roll code 011, 100 or 111 (30_encoding.md R91) -/
  | reservedOp1
  /-- an OP2 word with operand bit 9, 8 or 7 set (30_encoding.md R92) -/
  | reservedOp2
deriving DecidableEq, Repr

/-! ### The fields of a word -/

/-- `w[15:12]` (30_encoding.md R83). -/
def opcodeOf (w : Word) : BitVec 4 := w.extractLsb' 12 4

/-- `w[11]`, the I bit (30_encoding.md R83). -/
def iBitOf (w : Word) : Bool := w.getLsbD 11

/-- `w[10]`, the R bit (30_encoding.md R83). -/
def rBitOf (w : Word) : Bool := w.getLsbD 10

/-- `w[9:0]` (30_encoding.md R83). -/
def fieldOf (w : Word) : Field := w.extractLsb' 0 10

/-- `w[11:10]`, the bits OP1 and OP2 ignore (30_encoding.md R93). -/
def ignoredOf (w : Word) : BitVec 2 := w.extractLsb' 10 2

/-! ### A word's own constructor (log 21) -/

/-- JMP's words: 6800 and 6801 are RET and RTT (48_assembler_and_macros.md R219, R220). -/
def nameJmp (ind rel : Bool) (f : Field) : Instr :=
  if ind && !rel && f == 0#10 then .ret
  else if ind && !rel && f == 1#10 then .rtt
  else .jmp ind rel f

/-- LIA's words: with R = 0 they are LI (47_lia.md R211). -/
def nameLia (ign rel : Bool) (f : Field) : Instr :=
  match rel with
  | false => .li ign f
  | true => .lia ign true f

/-- OP1's words: the single minor operations of R85 and the macros of R87 by their own names. -/
def nameOp1 (ign : BitVec 2) : Op1Bits → Instr
  | ⟨false, false, false, false, false, .none⟩ => .nop ign
  | ⟨true, false, false, false, false, .none⟩ => .cla ign
  | ⟨false, true, false, false, false, .none⟩ => .cll ign
  | ⟨false, false, true, false, false, .none⟩ => .not ign
  | ⟨false, false, false, true, false, .none⟩ => .inc ign
  | ⟨false, false, false, false, true, .none⟩ => .cpl ign
  | ⟨false, false, false, false, false, .rbl⟩ => .rbl ign
  | ⟨false, false, false, false, false, .rbr⟩ => .rbr ign
  | ⟨false, false, false, false, false, .rnl⟩ => .rnl ign
  | ⟨false, false, false, false, false, .rnr⟩ => .rnr ign
  | ⟨false, false, true, true, false, .none⟩ => .neg ign
  | ⟨false, true, false, false, false, .rbl⟩ => .sbl ign
  | ⟨false, true, false, false, false, .rbr⟩ => .sbr ign
  | ⟨false, true, false, false, false, .rnl⟩ => .snl ign
  | ⟨false, true, false, false, false, .rnr⟩ => .snr ign
  | m => .op1 ign m

/-- OP2's words: the single minor operations of R86 and the macros of R87 by their own names. The
fields stand in the order CLA2, CLI, STI, group, sign test, zero test, L test. -/
def nameOp2 (ign : BitVec 2) : Op2Bits → Instr
  | ⟨false, false, false, false, false, false, false⟩ => .nop2 ign
  | ⟨false, false, false, false, true, false, false⟩ => .sna ign
  | ⟨false, false, false, false, false, true, false⟩ => .sza ign
  | ⟨false, false, false, false, false, false, true⟩ => .ssl ign
  | ⟨false, false, false, true, false, false, false⟩ => .skip ign
  | ⟨false, false, false, true, true, false, false⟩ => .snn ign
  | ⟨false, false, false, true, false, true, false⟩ => .snz ign
  | ⟨false, false, false, true, false, false, true⟩ => .scl ign
  | ⟨true, false, false, false, false, false, false⟩ => .cla2 ign
  | ⟨false, true, false, false, false, false, false⟩ => .cli ign
  | ⟨false, false, true, false, false, false, false⟩ => .sti ign
  | ⟨false, false, false, false, true, true, false⟩ => .snp ign
  | ⟨false, false, false, true, true, true, false⟩ => .spa ign
  | m => .op2 ign m

/-- An instruction written with its word's own constructor. -/
def Instr.canonical : Instr → Instr
  | .jmp ind rel f => nameJmp ind rel f
  | .lia ign rel f => nameLia ign rel f
  | .op1 ign m => nameOp1 ign m
  | .op2 ign m => nameOp2 ign m
  | .ing ign => .not ign
  | .trap ind rel f => .trap ind rel f
  | .iot ind rel f => .iot ind rel f
  | .load ind rel f => .load ind rel f
  | .store ind rel f => .store ind rel f
  | .inp ind rel f => .inp ind rel f
  | .out ind rel f => .out ind rel f
  | .jsr ind rel f => .jsr ind rel f
  | .add ind rel f => .add ind rel f
  | .and ind rel f => .and ind rel f
  | .or ind rel f => .or ind rel f
  | .xor ind rel f => .xor ind rel f
  | .nop ign => .nop ign
  | .cla ign => .cla ign
  | .cll ign => .cll ign
  | .not ign => .not ign
  | .inc ign => .inc ign
  | .cpl ign => .cpl ign
  | .rbl ign => .rbl ign
  | .rbr ign => .rbr ign
  | .rnl ign => .rnl ign
  | .rnr ign => .rnr ign
  | .nop2 ign => .nop2 ign
  | .sna ign => .sna ign
  | .sza ign => .sza ign
  | .ssl ign => .ssl ign
  | .skip ign => .skip ign
  | .snn ign => .snn ign
  | .snz ign => .snz ign
  | .scl ign => .scl ign
  | .cla2 ign => .cla2 ign
  | .cli ign => .cli ign
  | .sti ign => .sti ign
  | .reservedE bits => .reservedE bits
  | .li ign f => .li ign f
  | .ret => .ret
  | .rtt => .rtt
  | .neg ign => .neg ign
  | .sbl ign => .sbl ign
  | .sbr ign => .sbr ign
  | .snl ign => .snl ign
  | .snr ign => .snr ign
  | .snp ign => .snp ign
  | .spa ign => .spa ign

/-! ### The decoder -/

/-- Operand bits 2:0 of OP1 (30_encoding.md R85); 011, 100 and 111 are reserved (R91). -/
def rollOf (f : Field) : Option Roll :=
  match (f.extractLsb' 0 3).toNat with
  | 0 => some .none
  | 2 => some .rbl
  | 1 => some .rbr
  | 6 => some .rnl
  | 5 => some .rnr
  | _ => none

/-- OP1's operand field (30_encoding.md R85, R91). -/
def op1BitsOf (f : Field) : Option Op1Bits :=
  if f.getLsbD 4 || f.getLsbD 3 then none
  else
    match rollOf f with
    | none => none
    | some r => some ⟨f.getLsbD 9, f.getLsbD 8, f.getLsbD 7, f.getLsbD 6, f.getLsbD 5, r⟩

/-- OP2's operand field (30_encoding.md R86, R92). -/
def op2BitsOf (f : Field) : Option Op2Bits :=
  if f.getLsbD 9 || f.getLsbD 8 || f.getLsbD 7 then none
  else
    some ⟨f.getLsbD 6, f.getLsbD 5, f.getLsbD 4, f.getLsbD 3, f.getLsbD 2, f.getLsbD 1, f.getLsbD 0⟩

/-- An OP1 word (30_encoding.md R97, case C). -/
def decodeOp1 (w : Word) : Except DecodeError Instr :=
  match op1BitsOf (fieldOf w) with
  | none => .error .reservedOp1
  | some m => .ok (nameOp1 (ignoredOf w) m)

/-- An OP2 word (30_encoding.md R97, case D). -/
def decodeOp2 (w : Word) : Except DecodeError Instr :=
  match op2BitsOf (fieldOf w) with
  | none => .error .reservedOp2
  | some m => .ok (nameOp2 (ignoredOf w) m)

/-- The decoder (30_encoding.md R97, with the opcode map of R82). -/
def decode (w : Word) : Except DecodeError Instr :=
  match (opcodeOf w).toNat with
  | 0 => .ok (.trap (iBitOf w) (rBitOf w) (fieldOf w))
  | 1 => .ok (.iot (iBitOf w) (rBitOf w) (fieldOf w))
  | 2 => .ok (.load (iBitOf w) (rBitOf w) (fieldOf w))
  | 3 => .ok (.store (iBitOf w) (rBitOf w) (fieldOf w))
  | 4 => .ok (.inp (iBitOf w) (rBitOf w) (fieldOf w))
  | 5 => .ok (.out (iBitOf w) (rBitOf w) (fieldOf w))
  | 6 => .ok (nameJmp (iBitOf w) (rBitOf w) (fieldOf w))
  | 7 => .ok (.jsr (iBitOf w) (rBitOf w) (fieldOf w))
  | 8 => .ok (.add (iBitOf w) (rBitOf w) (fieldOf w))
  | 9 => .ok (.and (iBitOf w) (rBitOf w) (fieldOf w))
  | 10 => .ok (.or (iBitOf w) (rBitOf w) (fieldOf w))
  | 11 => .ok (.xor (iBitOf w) (rBitOf w) (fieldOf w))
  | 12 => decodeOp1 w
  | 13 => decodeOp2 w
  | 14 => .ok (.reservedE (w.extractLsb' 0 12))
  | _ => .ok (nameLia (iBitOf w) (rBitOf w) (fieldOf w))

/-- The instruction the decoder reads from an instruction whose bits are `w`, numbered as
spec/opcode_table.json numbers them. Every instruction is one word (30_encoding.md R80), so the bits
at and above `nbits`, and those above bit 15, do not count. -/
def decodeTableWord (nbits w : Nat) : Option Instr :=
  match decode (BitVec.ofNat 16 (w % 2 ^ nbits)) with
  | .ok i => some i
  | .error _ => none

/-! ### The encoder -/

/-- The one format (30_encoding.md R81): opcode, I, R, operand. -/
def encodeWord (opcode : BitVec 4) (iBit rBit : Bool) (f : Field) : Word :=
  opcode ++ BitVec.ofBool iBit ++ BitVec.ofBool rBit ++ f

/-- The roll code in operand bits 2:0 (30_encoding.md R85). -/
def encodeRoll : Roll → BitVec 3
  | .none => 0b000#3
  | .rbl => 0b010#3
  | .rbr => 0b001#3
  | .rnl => 0b110#3
  | .rnr => 0b101#3

/-- OP1's operand field (30_encoding.md R85); bits 4 and 3 are 0. -/
def encodeOp1Field (m : Op1Bits) : Field :=
  BitVec.ofBool m.cla ++ BitVec.ofBool m.cll ++ BitVec.ofBool m.not ++ BitVec.ofBool m.inc ++
    BitVec.ofBool m.cpl ++ 0#2 ++ encodeRoll m.roll

/-- OP2's operand field (30_encoding.md R86); bits 9, 8 and 7 are 0. -/
def encodeOp2Field (m : Op2Bits) : Field :=
  0#3 ++ BitVec.ofBool m.cla2 ++ BitVec.ofBool m.cli ++ BitVec.ofBool m.sti ++
    BitVec.ofBool m.g2 ++ BitVec.ofBool m.testN ++ BitVec.ofBool m.testZ ++ BitVec.ofBool m.testL

/-- An OP1 word with the given ignored bits (30_encoding.md R85, R93). -/
def encodeOp1 (ign : BitVec 2) (m : Op1Bits) : Word := 0xC#4 ++ ign ++ encodeOp1Field m

/-- An OP2 word with the given ignored bits (30_encoding.md R86, R93). -/
def encodeOp2 (ign : BitVec 2) (m : Op2Bits) : Word := 0xD#4 ++ ign ++ encodeOp2Field m

/-- The word of an instruction (30_encoding.md R82, R85, R86, R89, R90). The single minor operations
and the macros are given by the words Table 1 prints for them (R87), with RET = 6800 and RTT = 6801
(R89). -/
def encode : Instr → Word
  | .trap ind rel f => encodeWord 0x0#4 ind rel f
  | .iot ind rel f => encodeWord 0x1#4 ind rel f
  | .load ind rel f => encodeWord 0x2#4 ind rel f
  | .store ind rel f => encodeWord 0x3#4 ind rel f
  | .inp ind rel f => encodeWord 0x4#4 ind rel f
  | .out ind rel f => encodeWord 0x5#4 ind rel f
  | .jmp ind rel f => encodeWord 0x6#4 ind rel f
  | .jsr ind rel f => encodeWord 0x7#4 ind rel f
  | .add ind rel f => encodeWord 0x8#4 ind rel f
  | .and ind rel f => encodeWord 0x9#4 ind rel f
  | .or ind rel f => encodeWord 0xA#4 ind rel f
  | .xor ind rel f => encodeWord 0xB#4 ind rel f
  | .op1 ign m => encodeOp1 ign m
  | .nop ign => 0xC#4 ++ ign ++ 0x000#10
  | .cla ign => 0xC#4 ++ ign ++ 0x200#10
  | .cll ign => 0xC#4 ++ ign ++ 0x100#10
  | .not ign => 0xC#4 ++ ign ++ 0x080#10
  | .inc ign => 0xC#4 ++ ign ++ 0x040#10
  | .cpl ign => 0xC#4 ++ ign ++ 0x020#10
  | .rbl ign => 0xC#4 ++ ign ++ 0x002#10
  | .rbr ign => 0xC#4 ++ ign ++ 0x001#10
  | .rnl ign => 0xC#4 ++ ign ++ 0x006#10
  | .rnr ign => 0xC#4 ++ ign ++ 0x005#10
  | .op2 ign m => encodeOp2 ign m
  | .nop2 ign => 0xD#4 ++ ign ++ 0x000#10
  | .sna ign => 0xD#4 ++ ign ++ 0x004#10
  | .sza ign => 0xD#4 ++ ign ++ 0x002#10
  | .ssl ign => 0xD#4 ++ ign ++ 0x001#10
  | .skip ign => 0xD#4 ++ ign ++ 0x008#10
  | .snn ign => 0xD#4 ++ ign ++ 0x00C#10
  | .snz ign => 0xD#4 ++ ign ++ 0x00A#10
  | .scl ign => 0xD#4 ++ ign ++ 0x009#10
  | .cla2 ign => 0xD#4 ++ ign ++ 0x040#10
  | .cli ign => 0xD#4 ++ ign ++ 0x020#10
  | .sti ign => 0xD#4 ++ ign ++ 0x010#10
  | .reservedE bits => 0xE#4 ++ bits
  | .lia ign rel f => encodeWord 0xF#4 ign rel f
  | .li ign f => encodeWord 0xF#4 ign false f
  | .ret => 0x6800#16
  | .rtt => 0x6801#16
  | .neg ign => 0xC#4 ++ ign ++ 0x0C0#10
  | .ing ign => 0xC#4 ++ ign ++ 0x080#10
  | .sbl ign => 0xC#4 ++ ign ++ 0x102#10
  | .sbr ign => 0xC#4 ++ ign ++ 0x101#10
  | .snl ign => 0xC#4 ++ ign ++ 0x106#10
  | .snr ign => 0xC#4 ++ ign ++ 0x105#10
  | .snp ign => 0xD#4 ++ ign ++ 0x006#10
  | .spa ign => 0xD#4 ++ ign ++ 0x00E#10

end Sys2Proof
end

