-- ==== Sys2Proof/Config.lean ====
section
/-! DEFINITION. What the source leaves to the system (00_scope.md R7, 92_eei_decisions.md): the
parameters, which are plain data, and the oracles and arbitrary values, which are constants without a
body, so that no proof can learn a value of theirs. -/

namespace Sys2Proof

/-- `PAGE_SOURCE` (40_addressing_modes.md R111, decision D1): which address supplies the six page bits
of a page-relative operand. -/
inductive PageSource where
  /-- the instruction's own address, the spec's choice and default -/
  | instructionAddress
  /-- PC after the fetch's increment -/
  | incrementedPc
deriving DecidableEq, Repr

/-- `OP_IR_BITS` (30_encoding.md R93, decision D5): what OP1 and OP2 words with bit 11 or 10 set do. -/
inductive OpIrBits where
  /-- they execute as the word with both bits clear, the spec's choice and default -/
  | ignore
  /-- they have no meaning -/
  | refuse
deriving DecidableEq, Repr

/-- What stands at an address of memory space (`MEM_MAP`, decision D11). The contents of a ROM word
are held in memory like any other word's. -/
inductive MemKind where
  | ram
  | rom
  | absent
deriving DecidableEq, Repr

/-- What a write to a ROM word does (decision D11, U12: a parameter of the harness). -/
inductive RomWrite where
  | ignore
  | refuse
deriving DecidableEq, Repr

/-- A run of addresses of one kind, `first` to `last` inclusive. -/
structure Region where
  first : Word
  last : Word
  kind : MemKind
deriving DecidableEq, Repr

/-- The parameters of one system. They are "fixed per system" (00_scope.md R16): no step changes them. -/
structure Config where
  pageSource : PageSource
  opIrBits : OpIrBits
  /-- the first region that holds an address says its kind; an address in no region is RAM -/
  memMap : List Region
  romWrite : RomWrite
deriving DecidableEq, Repr

/-- The spec's defaults (92_eei_decisions.md): D1, D5, and D11's "all addresses RAM". -/
def Config.default : Config where
  pageSource := .instructionAddress
  opIrBits := .ignore
  memMap := []
  romWrite := .ignore

/-- One I/O access, an event that is never merged, repeated, reordered or elided (20_memory.md R56). -/
inductive IoEvent where
  /-- `IORead(addr)` and the value the device answered -/
  | read (addr value : Word)
  /-- `IOWrite(addr, value)` -/
  | write (addr value : Word)
deriving DecidableEq, Repr

/-- `IO_DEVICES` (decisions D12, D21): the answer to a read of `addr`, in the given step, after the
given accesses. A device may depend on all of them; nothing constrains the answer (U11). -/
opaque Config.ioDevice : Nat → List IoEvent → Word → Word

/-- `IRQ_SOURCE` (decisions D13, D23): whether a request is present at the given boundary, after the
given I/O accesses. Nothing constrains it (U16). -/
opaque Config.irqSource : Nat → List IoEvent → Bool

/-- The arbitrary value A holds after the given reset (10_state.md R36, U1). -/
opaque Config.resetA : Nat → Word

/-- The arbitrary value L holds after the given reset (10_state.md R36, U1). -/
opaque Config.resetL : Nat → Bool

/-- The arbitrary value IR holds after the given reset (10_state.md R36). -/
opaque Config.resetIr : Nat → Word

/-- The arbitrary value MAR holds after the given reset (10_state.md R36). -/
opaque Config.resetMar : Nat → Word

/-- The arbitrary value DR holds after the given reset (10_state.md R36). -/
opaque Config.resetDr : Nat → Word

end Sys2Proof
end

