-- ==== Sys2Proof/Machine/State.lean ====
section
/-! DEFINITION. The machine's state as plain data (INVENTORY.md, State), the reasons a step can stop,
and the machine right after reset. -/

namespace Sys2Proof.Machine

/-- Memory space, 65,536 words (20_memory.md R50, R52), held two bytes a word: word `x` is the bytes
numbered `2 * x` (low half) and `2 * x + 1` (high half). The layout is the model's (decision D22,
log 5). Sys2Proof/Machine/Ops.lean says what an unlisted byte reads as and what the canonical form is. -/
abbrev Memory := List Host.Cell

/-- The whole machine: the spec's registers, the buffered interrupt, memory, the record of I/O, what
the environment has already settled, and the parameters of the system. -/
@[ext]
structure State where
  /-- the accumulator A (10_state.md R21) -/
  a : Word
  /-- the link register L (10_state.md R22) -/
  l : Bool
  /-- the program counter PC (10_state.md R23) -/
  pc : Word
  /-- the interrupt register I (10_state.md R26) -/
  i : Bool
  /-- the instruction register IR (10_state.md R27) -/
  ir : Word
  /-- the memory address register MAR (10_state.md R28, log 3) -/
  mar : Word
  /-- the data register DR (10_state.md R29, log 4) -/
  dr : Word
  /-- IRQ_PENDING, the buffered interrupt (10_state.md R31, log 14) -/
  irqPending : Bool
  /-- memory space (20_memory.md R50) -/
  mem : Memory
  /-- every I/O access so far, in program order (20_memory.md R56) -/
  ioTrace : List IoEvent
  /-- the answers already settled for the coming I/O reads, next one first; when there is none left,
  `Config.ioDevice` answers (log 11) -/
  ioAnswers : List Word
  /-- whether a request is present at the coming boundaries, next one first; when there is none left,
  `Config.irqSource` says (log 12) -/
  irqRequests : List Bool
  /-- how many boundaries and resets there have been, the index of the free values (log 26) -/
  tick : Nat
  /-- the parameters of the system (00_scope.md R7); no step changes them (log 7) -/
  cfg : Config
deriving DecidableEq, Repr

/-- Accesses the spec gives no meaning (U12 of 93_implementation_defined.md: "refuse"). The CFT raises
no exception for them (60_exceptions.md R240): the model stops. Both are safe: nothing can be proved
of a run that reaches one (log 8). -/
inductive Fault where
  /-- Raised by a fetch, read or write at an address that `MEM_MAP` marks absent. Safe. -/
  | absentMemory (addr : Word)
  /-- Raised by a write to a ROM word where the harness parameter says to refuse it. Safe. -/
  | romWrite (addr : Word)
deriving DecidableEq, Repr

/-- Words without a meaning. All are safe: nothing can be proved of a run that reaches one. -/
inductive Refusal where
  /-- Raised by an arm of `exec` whose instruction has no meaning yet; no arm does. Safe. -/
  | notModelled (mnemonic : String)
  /-- Raised by RESERVED_E, opcode 1110 (30_encoding.md R90, U2). Safe. -/
  | unassignedOpcode
  /-- Raised by `step` on an OP1 word with a reserved pattern (30_encoding.md R91, U3, U4). Safe. -/
  | reservedOp1
  /-- Raised by `step` on an OP2 word with a reserved pattern (30_encoding.md R92, U5). Safe. -/
  | reservedOp2
  /-- Raised by OP1 and OP2 words with bit 11 or 10 set when `OP_IR_BITS` is `refuse` (30_encoding.md
  R93, U6). Safe. -/
  | opIrBits
deriving DecidableEq, Repr

/-- What a meaning answers. -/
abbrev Result := Host.Outcome State Fault Refusal

/-- The machine right after reset (10_state.md R36, 70_reset_and_hazards.md R270): PC = FFF0, I = 0,
no buffered interrupt; the other registers hold arbitrary values (log 1, 2); nothing is written to
memory yet (log 6; a reset in a run keeps memory instead, log 32); the parameters have the spec's defaults (log 7); the environment has settled
nothing (log 11, 12). -/
def State.reset : State where
  a := Config.resetA 0
  l := Config.resetL 0
  pc := 0xFFF0#16
  i := false
  ir := Config.resetIr 0
  mar := Config.resetMar 0
  dr := Config.resetDr 0
  irqPending := false
  mem := []
  ioTrace := []
  ioAnswers := []
  irqRequests := []
  tick := 0
  cfg := Config.default

end Sys2Proof.Machine
end

