-- ==== Sys2Proof/Machine/Flags.lean ====
section
/-! DEFINITION. Every computation of L, and the tests of A and L: the carry of ADD, the 17-bit
quantity (L,A), its increment and its rolls, and the skip conditions of OP2. -/

namespace Sys2Proof.Machine

/-! ### ADD (43_arithmetic_logic.md R150) -/

/-- The exact 17-bit sum of two words. -/
def sum17 (a m : Word) : BitVec 17 := a.setWidth 17 + m.setWidth 17

/-- The new A. -/
def addA (a m : Word) : Word := (sum17 a m).setWidth 16

/-- The new L: toggled on carry-out. L is no input to the sum. -/
def addL (l : Bool) (a m : Word) : Bool := l ^^ (sum17 a m).getLsbD 16

/-! ### The 17-bit quantity (L,A) (00_scope.md R10) -/

/-- `L ++ A`, L the most significant bit. -/
def link (l : Bool) (a : Word) : BitVec 17 := BitVec.ofBool l ++ a

/-- L of a 17-bit quantity: bit 16. -/
def linkL (x : BitVec 17) : Bool := x.getLsbD 16

/-- A of a 17-bit quantity: bits 15:0. -/
def linkA (x : BitVec 17) : Word := x.setWidth 16

/-- `(L,A) <- x` (00_scope.md R10). -/
def setLink (x : BitVec 17) (s : State) : State := { s with l := linkL x, a := linkA x }

/-- Rotation of 17 bits to the left (45_op1.md R183). -/
def rotl17 (x : BitVec 17) (n : Nat) : BitVec 17 := (x <<< n) ||| (x >>> (17 - n))

/-- Rotation of 17 bits to the right (45_op1.md R183). -/
def rotr17 (x : BitVec 17) (n : Nat) : BitVec 17 := rotl17 x (17 - n)

/-- The roll a code selects (45_op1.md R177 to R180; the nybble rolls by decision D9, log 19). -/
def roll17 : Roll → BitVec 17 → BitVec 17
  | .none, x => x
  | .rbl, x => rotl17 x 1
  | .rbr, x => rotr17 x 1
  | .rnl, x => rotl17 x 4
  | .rnr, x => rotr17 x 4

/-! ### The skip conditions of OP2 (46_op2.md R199) -/

/-- "A negative": bit 15 is 1 (00_scope.md R9). -/
def isNegative (a : Word) : Bool := a.getLsbD 15

/-- "A zero". -/
def isZero (a : Word) : Bool := decide (a = 0x0000#16)

/-- Whether the skip is performed: G1 conditions are ORed, G2 conditions ANDed (R199). -/
def skips (m : Op2Bits) (a : Word) (l : Bool) : Bool :=
  match m.g2 with
  | false => (m.testN && isNegative a) || (m.testZ && isZero a) || (m.testL && l)
  | true => (!m.testN || !isNegative a) && (!m.testZ || !isZero a) && (!m.testL || !l)

end Sys2Proof.Machine
end

