-- ==== Sys2Proof/Machine/Ops.lean ====
section
/-! DEFINITION. The shared operations over memory, I/O space and the registers: reading and writing
under `MEM_MAP`, fetching, the interrupt's notice and entry, and the reset transition. -/

namespace Sys2Proof.Machine

/-! ### Memory as data -/

/-- What a byte of memory that nothing has written reads as (10_state.md R36 gives no contents: DESIGN
CHOICE, unsafe, log 6). -/
def Memory.unlisted : Byte := 0x00#8

/-- The byte numbered `k`. -/
def Memory.byte : Memory → Nat → Byte
  | [], _ => Memory.unlisted
  | (j, b) :: rest, k => if j = k then b else Memory.byte rest k

/-- Memory with nothing listed for the byte numbered `k`. -/
def Memory.without : Memory → Nat → Memory
  | [], _ => []
  | (j, b) :: rest, k =>
    if j = k then Memory.without rest k else (j, b) :: Memory.without rest k

/-- Memory with the entry `(k, b)` put before the first entry of a higher number. -/
def Memory.place : Memory → Nat → Byte → Memory
  | [], k, b => [(k, b)]
  | (j, c) :: rest, k, b =>
    if k < j then (k, b) :: (j, c) :: rest else (j, c) :: Memory.place rest k b

/-- Writes the byte numbered `k`, keeping the canonical form: a byte equal to what an unlisted one
reads as is not listed. -/
def Memory.setByte (m : Memory) (k : Nat) (b : Byte) : Memory :=
  if b = Memory.unlisted then m.without k else (m.without k).place k b

/-- The word at address `x` (20_memory.md R52). -/
def Memory.word (m : Memory) (x : Word) : Word :=
  m.byte (2 * x.toNat + 1) ++ m.byte (2 * x.toNat)

/-- Memory with the word `v` at address `x` (20_memory.md R52). -/
def Memory.write (m : Memory) (x v : Word) : Memory :=
  (m.setByte (2 * x.toNat) (v.extractLsb' 0 8)).setByte (2 * x.toNat + 1) (v.extractLsb' 8 8)

/-- The canonical form: byte numbers strictly rising and inside the 65,536 words, and no entry equal
to what an unlisted byte reads as. -/
abbrev Memory.wf (m : Memory) : Prop :=
  m.Pairwise (fun c d => c.1 < d.1) ∧ ∀ c ∈ m, c.1 < 2 * 65536 ∧ c.2 ≠ Memory.unlisted

/-! ### `MEM_MAP` (20_memory.md R59, decision D11) -/

/-- The kind of an address: that of the first region holding it; an address in no region is RAM. -/
def kindAt : List Region → Word → MemKind
  | [], _ => .ram
  | r :: rest, x => if r.first ≤ x ∧ x ≤ r.last then r.kind else kindAt rest x

/-- A read or fetch at `x` has a meaning: the address is populated (U12). -/
def readable (x : Word) (s : State) : Bool :=
  match kindAt s.cfg.memMap x with
  | .ram => true
  | .rom => true
  | .absent => false

/-- A write at `x` has a meaning: the address is RAM, or ROM where writes to ROM are ignored (D11, U12). -/
def accepts (x : Word) (s : State) : Bool :=
  match kindAt s.cfg.memMap x with
  | .ram => true
  | .rom => decide (s.cfg.romWrite = .ignore)
  | .absent => false

/-- Memory after an accepted write: only RAM changes (D11). -/
def pokeMem (cfg : Config) (x v : Word) (m : Memory) : Memory :=
  match kindAt cfg.memMap x with
  | .ram => m.write x v
  | .rom => m
  | .absent => m

/-- The stop of a write that has no meaning. -/
def writeFault (x : Word) (s : State) : Fault :=
  match kindAt s.cfg.memMap x with
  | .rom => .romWrite x
  | .ram => .absentMemory x
  | .absent => .absentMemory x

/-- `MemRead(x, 1)` (00_scope.md R11). -/
def memRead (x : Word) (s : State) : Except Fault Word :=
  if readable x s then .ok (s.mem.word x) else .error (.absentMemory x)

/-- `MemWrite(x, 1, v)` (00_scope.md R11). -/
def memWrite (x v : Word) (s : State) : Except Fault State :=
  if accepts x s then .ok { s with mem := pokeMem s.cfg x v s.mem } else .error (writeFault x s)

/-- A meaning's answer from its last access. -/
def settle : Except Fault State → Result
  | .ok s => .next s
  | .error r => .fault r

/-! ### Fetch (10_state.md R24) -/

/-- Reads the word at PC into IR and increments PC, modulo 2^16 (R25, decision D2). MAR holds the
address put out (R28, log 3). -/
def fetch (s : State) : Except Fault State :=
  match memRead s.pc s with
  | .error r => .error r
  | .ok w => .ok { s with ir := w, mar := s.pc, pc := s.pc + 1#16 }

/-! ### I/O space (20_memory.md R50, R56) -/

/-- What the device answers to a read of `x`: the next settled answer, else a free value (U11, log 11). -/
def ioAnswer (x : Word) (s : State) : Word :=
  match s.ioAnswers with
  | v :: _ => v
  | [] => Config.ioDevice s.tick s.ioTrace x

/-- `A <- IORead(x)` (00_scope.md R11), one event, one draw. -/
def ioReadToA (x : Word) (s : State) : State :=
  { s with
    a := ioAnswer x s
    ioAnswers := s.ioAnswers.tail
    ioTrace := s.ioTrace ++ [.read x (ioAnswer x s)] }

/-- `IOWrite(x, A)` (00_scope.md R11), one event. -/
def ioWriteFromA (x : Word) (s : State) : State :=
  { s with ioTrace := s.ioTrace ++ [.write x s.a] }

/-! ### The interrupt (60_exceptions.md R243 to R249) -/

/-- Word 0000, where JSR saves PC (10_state.md R34). -/
def subretSlot : Word := 0x0000#16

/-- Word 0001, where TRAP saves PC (10_state.md R34). -/
def trapretSlot : Word := 0x0001#16

/-- Word 0002, where the interrupt saves PC (10_state.md R34). -/
def isrretSlot : Word := 0x0002#16

/-- The address of the interrupt service routine, an entry point and no vector word (20_memory.md R58). -/
def isrEntry : Word := 0xFFF8#16

/-- The boot address, an entry point and no vector word (20_memory.md R58, 70_reset_and_hazards.md R273). -/
def bootEntry : Word := 0xFFF0#16

/-- Whether the environment presents a request at this boundary: as settled, else free (R243, log 12). -/
def requestPresent (s : State) : Bool :=
  match s.irqRequests with
  | q :: _ => q
  | [] => Config.irqSource s.tick s.ioTrace

/-- The request, if present, is buffered when I was 1 before the instruction or is 1 after it (R244 in
the window of R247, decision D13, log 13). -/
def noticeRequest (iBefore : Bool) (s : State) : State :=
  { s with
    irqPending := s.irqPending || ((iBefore || s.i) && requestPresent s)
    irqRequests := s.irqRequests.tail
    tick := s.tick + 1 }

/-- The interrupt entry (R245): the buffered event is consumed, I cleared, PC saved in word 0002 and
loaded with FFF8; MAR holds the slot's address (R28, log 3). -/
def enterIsr (s : State) : State :=
  { s with
    irqPending := false
    i := false
    mem := pokeMem s.cfg isrretSlot s.pc s.mem
    mar := isrretSlot
    pc := isrEntry }

/-- The boundary after an instruction: the entry, if an interrupt is buffered (R245). There is no
return instruction: software ends its routine with STI and JMP I R 0002 (R248, decision D25, log 22).
Whether word 0002 takes the write is looked at first, so that a boundary's answer is a next state even
where the request is a free value. -/
def interruptEntry (s : State) : Except Fault State :=
  if !accepts isrretSlot s && s.irqPending then .error (writeFault isrretSlot s)
  else .ok (if s.irqPending then enterIsr s else s)

/-- What follows an instruction that was fetched with I equal to `iBefore` (R259). -/
def boundary (iBefore : Bool) (s : State) : Result :=
  settle (interruptEntry (noticeRequest iBefore s))

/-! ### Reset (70_reset_and_hazards.md R270) -/

/-- The reset transition, an event of the environment applied between steps (U18, log 23): PC = FFF0,
I = 0, no buffered interrupt, the other registers arbitrary; memory and devices untouched by the CPU.
DESIGN CHOICE, unsafe (log 32): RAM survives a reset in a run. R36 and decision D17 call its contents after
reset unspecified, and 91_not_in_source.md N27 says not to assume that memory is preserved or cleared. -/
def systemReset (s : State) : State :=
  { s with
    pc := bootEntry
    i := false
    irqPending := false
    a := Config.resetA (s.tick + 1)
    l := Config.resetL (s.tick + 1)
    ir := Config.resetIr (s.tick + 1)
    mar := Config.resetMar (s.tick + 1)
    dr := Config.resetDr (s.tick + 1)
    tick := s.tick + 1 }

end Sys2Proof.Machine
end

