-- ==== Sys2Proof/Machine/Operands.lean ====
section
/-! DEFINITION. Operand assembly and the addressing modes (40_addressing_modes.md). Throughout, the
instruction has been fetched: PC is `ia + 1` (10_state.md R24), so `ia` is PC - 1. -/

namespace Sys2Proof.Machine

/-- `ia`, the address the instruction was fetched from (00_scope.md R11). -/
def instructionAddress (s : State) : Word := s.pc - 1#16

/-- The six page bits (R111): `ia[15:10]` by the spec's choice (decision D1), PC's own under the second
value of `PAGE_SOURCE` (log 9). -/
def pageOf (s : State) : BitVec 6 :=
  match s.cfg.pageSource with
  | .instructionAddress => (instructionAddress s).extractLsb' 10 6
  | .incrementedPc => s.pc.extractLsb' 10 6

/-- `opnd(w, ia)` (R110): the page bits or six zeros above the ten operand bits. -/
def opnd (rel : Bool) (f : Field) (s : State) : Word :=
  match rel with
  | true => pageOf s ++ f
  | false => 0#6 ++ f

/-- The address is one of the autoindex words, 0080 to 00FF (R116). -/
def isAutoindex (p : Word) : Bool := decide (0x0080#16 ≤ p) && decide (p ≤ 0x00FF#16)

/-- The instruction is in autoindex mode: indirect, through an autoindex word (R116, decision D18). -/
def autoindexed (ind rel : Bool) (f : Field) (s : State) : Bool :=
  ind && isAutoindex (opnd rel f s)

/-- The effective address: the operand (R114), or the pointer word it addresses (R115). -/
def effective (ind rel : Bool) (f : Field) (s : State) : Word :=
  match ind with
  | false => opnd rel f s
  | true => s.mem.word (opnd rel f s)

/-- What the addressing mode leaves for the instruction (R119). -/
structure EA where
  /-- the effective address -/
  addr : Word
  /-- it came from a pointer, so it goes out through DR and not through MAR (10_state.md R28) -/
  indirect : Bool
  /-- the pending autoindex write-back: the pointer word and its new value -/
  wb : Option (Word × Word)
deriving DecidableEq, Repr

/-- The effective-address procedure (R119): the operand itself; or the pointer read into DR, with the
write-back of pointer + 1, modulo 2^16, in autoindex mode (R117, decision D3). -/
def effAddr (ind rel : Bool) (f : Field) (s : State) : Except Fault (EA × State) :=
  match ind with
  | false => .ok ({ addr := opnd rel f s, indirect := false, wb := none }, s)
  | true =>
    match memRead (opnd rel f s) s with
    | .error r => .error r
    | .ok d =>
      .ok ({ addr := d, indirect := true,
             wb := if isAutoindex (opnd rel f s) then some (opnd rel f s, d + 1#16) else none },
           { s with mar := opnd rel f s, dr := d })

/-- The effective address is put out: through MAR unless it stands in DR (10_state.md R28, log 3). -/
def putOut (ea : EA) (s : State) : State :=
  { s with mar := if ea.indirect then s.mar else ea.addr }

/-- The instruction's own read of memory at its effective address. -/
def readDatum (ea : EA) (s : State) : Except Fault (Word × State) :=
  match memRead ea.addr s with
  | .error r => .error r
  | .ok m => .ok (m, putOut ea s)

/-- The instruction's own write of memory at its effective address. -/
def writeDatum (ea : EA) (v : Word) (s : State) : Except Fault State :=
  memWrite ea.addr v (putOut ea s)

/-- JSR's and TRAP's write of PC to their slot (10_state.md R34). -/
def saveReturn (slot : Word) (s : State) : Except Fault State :=
  memWrite slot s.pc { s with mar := slot }

/-- `Finish` (R119): the autoindex write-back, after the instruction's own accesses (R117, decision D4). -/
def finish (ea : EA) (s : State) : Except Fault State :=
  match ea.wb with
  | none => .ok s
  | some (p, v) => memWrite p v { s with mar := p }

/-- A memory-reference instruction (R119): the effective address, then the instruction's own accesses
`act`, then `Finish` (20_memory.md R55). -/
def memoryReference (ind rel : Bool) (f : Field) (act : EA → State → Except Fault State)
    (s : State) : Result :=
  settle <|
    match effAddr ind rel f s with
    | .error r => .error r
    | .ok (ea, s₁) =>
      match act ea s₁ with
      | .error r => .error r
      | .ok s₂ => finish ea s₂

end Sys2Proof.Machine
end

