-- ==== Sys2Proof/Machine/Arithmetic.lean ====
section
/-! DEFINITION. ADD, AND, OR and XOR (43_arithmetic_logic.md). -/

namespace Sys2Proof.Machine

/-- Reads the datum and combines it with A and L. -/
def combine (op : Word → State → State) (ind rel : Bool) (f : Field) (s : State) : Result :=
  memoryReference ind rel f
    (fun ea s₁ =>
      match readDatum ea s₁ with
      | .error r => .error r
      | .ok (m, s₂) => .ok (op m s₂)) s

/-- ADD (R150): the sum modulo 2^16 to A; L toggled on carry-out. -/
def execAdd (ind rel : Bool) (f : Field) (s : State) : Result :=
  combine (fun m t => { t with a := addA t.a m, l := addL t.l t.a m }) ind rel f s

/-- AND (R151). -/
def execAnd (ind rel : Bool) (f : Field) (s : State) : Result :=
  combine (fun m t => { t with a := t.a &&& m }) ind rel f s

/-- OR (R152). -/
def execOr (ind rel : Bool) (f : Field) (s : State) : Result :=
  combine (fun m t => { t with a := t.a ||| m }) ind rel f s

/-- XOR (R153). -/
def execXor (ind rel : Bool) (f : Field) (s : State) : Result :=
  combine (fun m t => { t with a := t.a ^^^ m }) ind rel f s

end Sys2Proof.Machine
end

