-- ==== Sys2Proof/Machine/Flow.lean ====
section
/-! DEFINITION. TRAP, JMP and JSR (44_flow_control.md), and the macros RET and RTT
(48_assembler_and_macros.md). TRAP is an ordinary instruction, no exception (60_exceptions.md R241). -/

namespace Sys2Proof.Machine

/-- `PC <- addr`. -/
def jump (ind rel : Bool) (f : Field) (s : State) : Result :=
  memoryReference ind rel f (fun ea s₁ => .ok { s₁ with pc := ea.addr }) s

/-- `MemWrite(slot, 1, PC)`, then `PC <- addr`: the addressing mode first (R164, decision D4). -/
def call (slot : Word) (ind rel : Bool) (f : Field) (s : State) : Result :=
  memoryReference ind rel f
    (fun ea s₁ =>
      match saveReturn slot s₁ with
      | .error r => .error r
      | .ok s₂ => .ok { s₂ with pc := ea.addr }) s

/-- TRAP (R160), through slot 0001. -/
def execTrap (ind rel : Bool) (f : Field) (s : State) : Result := call trapretSlot ind rel f s

/-- JMP (R161). -/
def execJmp (ind rel : Bool) (f : Field) (s : State) : Result := jump ind rel f s

/-- JSR (R162), through slot 0000. -/
def execJsr (ind rel : Bool) (f : Field) (s : State) : Result := call subretSlot ind rel f s

/-- RET (R219): JMP I R 0000. -/
def execRet (s : State) : Result := jump true false 0x000#10 s

/-- RTT (R220): JMP I R 0001. -/
def execRtt (s : State) : Result := jump true false 0x001#10 s

end Sys2Proof.Machine
end

