-- ==== Sys2Proof/Machine/Immediate.lean ====
section
/-! DEFINITION. LIA and LI (47_lia.md): A gets the assembled operand; memory is not read, no autoindex
happens, and bit 11 is ignored (R210, 30_encoding.md R94). -/

namespace Sys2Proof.Machine

/-- `A <- opnd(w, ia)` (R210). -/
def loadImmediate (rel : Bool) (f : Field) (s : State) : State := { s with a := opnd rel f s }

/-- LIA (R210). Bit 11, the first argument, is ignored (R94). -/
def execLia (_ign rel : Bool) (f : Field) (s : State) : Result := .next (loadImmediate rel f s)

/-- LI (R211), LIA with R = 0. Bit 11, the first argument, is ignored (R94). -/
def execLi (_ign : Bool) (f : Field) (s : State) : Result := .next (loadImmediate false f s)

end Sys2Proof.Machine
end

