-- ==== Sys2Proof/Machine/InOut.lean ====
section
/-! DEFINITION. IN, OUT and IOT (42_io.md). The I/O address is formed like a memory address, and the
pointer of the indirect modes stands in memory space (40_addressing_modes.md R121). -/

namespace Sys2Proof.Machine

/-- IN (R140): `A <- IORead(addr)`. -/
def execIn (ind rel : Bool) (f : Field) (s : State) : Result :=
  memoryReference ind rel f (fun ea s₁ => .ok (ioReadToA ea.addr (putOut ea s₁))) s

/-- OUT (R141): `IOWrite(addr, A)`. -/
def execOut (ind rel : Bool) (f : Field) (s : State) : Result :=
  memoryReference ind rel f (fun ea s₁ => .ok (ioWriteFromA ea.addr (putOut ea s₁))) s

/-- IOT (R142): `IOWrite(addr, A)`, then `A <- IORead(addr)` at the same address. -/
def execIot (ind rel : Bool) (f : Field) (s : State) : Result :=
  memoryReference ind rel f
    (fun ea s₁ => .ok (ioReadToA ea.addr (ioWriteFromA ea.addr (putOut ea s₁)))) s

end Sys2Proof.Machine
end

