-- ==== Sys2Proof/Machine/LoadStore.lean ====
section
/-! DEFINITION. LOAD and STORE (41_memory_load_store.md). -/

namespace Sys2Proof.Machine

/-- LOAD (R130): `A <- MemRead(addr, 1)`. -/
def execLoad (ind rel : Bool) (f : Field) (s : State) : Result :=
  memoryReference ind rel f
    (fun ea s₁ =>
      match readDatum ea s₁ with
      | .error r => .error r
      | .ok (m, s₂) => .ok { s₂ with a := m }) s

/-- STORE (R131): `MemWrite(addr, 1, A)`. -/
def execStore (ind rel : Bool) (f : Field) (s : State) : Result :=
  memoryReference ind rel f (fun ea s₁ => writeDatum ea s₁.a s₁) s

end Sys2Proof.Machine
end

