-- ==== Sys2Proof/Machine/Op1.lean ====
section
/-! DEFINITION. OP1, its minor operations and its macros (45_op1.md, 48_assembler_and_macros.md). -/

namespace Sys2Proof.Machine

/-- The word has bit 11 or 10 set and `OP_IR_BITS` refuses such words (30_encoding.md R93, U6, log 10). -/
def irBitsRefused (ign : BitVec 2) (s : State) : Bool :=
  match s.cfg.opIrBits with
  | .ignore => false
  | .refuse => decide (ign ≠ 0#2)

/-- CLA (R172): `A <- 0000`. -/
def minorCla (s : State) : State := { s with a := 0x0000#16 }

/-- CLL (R173): `L <- 0`. -/
def minorCll (s : State) : State := { s with l := false }

/-- NOT (R174): `A <- A XOR FFFF`. -/
def minorNot (s : State) : State := { s with a := s.a ^^^ 0xFFFF#16 }

/-- INC (R175): `(L,A) <- (L,A) + 1`, modulo 2^17. -/
def minorInc (s : State) : State := setLink (link s.l s.a + 1#17) s

/-- CPL (R176): `L <- L XOR 1`. -/
def minorCpl (s : State) : State := { s with l := s.l ^^ true }

/-- The rolls (R177 to R180). -/
def minorRoll (r : Roll) (s : State) : State := setLink (roll17 r (link s.l s.a)) s

/-- A minor operation that is performed when its bit is set. -/
def selected (bit : Bool) (op : State → State) (s : State) : State :=
  match bit with
  | true => op s
  | false => s

/-- The minor operations in the fixed order of R170 and R183, each on the values the ones before left. -/
def op1State (m : Op1Bits) (s : State) : State :=
  let s₁ := selected m.cla minorCla s
  let s₂ := selected m.cll minorCll s₁
  let s₃ := selected m.not minorNot s₂
  let s₄ := selected m.inc minorInc s₃
  let s₅ := selected m.cpl minorCpl s₄
  minorRoll m.roll s₅

/-- The whole OP1 instruction (R183). -/
def runOp1 (ign : BitVec 2) (m : Op1Bits) (s : State) : Result :=
  if irBitsRefused ign s then .refused .opIrBits else .next (op1State m s)

/-- OP1 (R183). -/
def execOp1 (ign : BitVec 2) (m : Op1Bits) (s : State) : Result := runOp1 ign m s

/-- NOP (R171). -/
def execNop (ign : BitVec 2) (s : State) : Result := runOp1 ign {} s

/-- CLA (R172). -/
def execCla (ign : BitVec 2) (s : State) : Result := runOp1 ign { cla := true } s

/-- CLL (R173). -/
def execCll (ign : BitVec 2) (s : State) : Result := runOp1 ign { cll := true } s

/-- NOT (R174). -/
def execNot (ign : BitVec 2) (s : State) : Result := runOp1 ign { not := true } s

/-- INC (R175). -/
def execInc (ign : BitVec 2) (s : State) : Result := runOp1 ign { inc := true } s

/-- CPL (R176). -/
def execCpl (ign : BitVec 2) (s : State) : Result := runOp1 ign { cpl := true } s

/-- RBL (R177). -/
def execRbl (ign : BitVec 2) (s : State) : Result := runOp1 ign { roll := .rbl } s

/-- RBR (R178). -/
def execRbr (ign : BitVec 2) (s : State) : Result := runOp1 ign { roll := .rbr } s

/-- RNL (R179). -/
def execRnl (ign : BitVec 2) (s : State) : Result := runOp1 ign { roll := .rnl } s

/-- RNR (R180). -/
def execRnr (ign : BitVec 2) (s : State) : Result := runOp1 ign { roll := .rnr } s

/-- NEG (R221): OP1 NOT INC. -/
def execNeg (ign : BitVec 2) (s : State) : Result := runOp1 ign { not := true, inc := true } s

/-- ING (R222): OP1 NOT. -/
def execIng (ign : BitVec 2) (s : State) : Result := runOp1 ign { not := true } s

/-- SBL (R226): OP1 CLL RBL. -/
def execSbl (ign : BitVec 2) (s : State) : Result := runOp1 ign { cll := true, roll := .rbl } s

/-- SBR (R227): OP1 CLL RBR. -/
def execSbr (ign : BitVec 2) (s : State) : Result := runOp1 ign { cll := true, roll := .rbr } s

/-- SNL (R228): OP1 CLL RNL. -/
def execSnl (ign : BitVec 2) (s : State) : Result := runOp1 ign { cll := true, roll := .rnl } s

/-- SNR (R229): OP1 CLL RNR. -/
def execSnr (ign : BitVec 2) (s : State) : Result := runOp1 ign { cll := true, roll := .rnr } s

end Sys2Proof.Machine
end

