-- ==== Sys2Proof/Machine/Op2.lean ====
section
/-! DEFINITION. OP2, its minor operations and its macros (46_op2.md, 48_assembler_and_macros.md). -/

namespace Sys2Proof.Machine

/-- The skip (R190, R199): if it is performed, PC, already `ia + 1`, is incremented again, modulo 2^16
(10_state.md R25). -/
def minorSkip (performed : Bool) (s : State) : State :=
  { s with pc := if performed then s.pc + 1#16 else s.pc }

/-- CLI (R201): `I <- 0`. -/
def minorCli (s : State) : State := { s with i := false }

/-- STI (R202): `I <- 1`. -/
def minorSti (s : State) : State := { s with i := true }

/-- The minor operations in the order of R203 and R205 (decision D8, log 18): the skip on the entry
values of A and L, then CLA2, CLI, STI. -/
def op2State (m : Op2Bits) (s : State) : State :=
  let s₁ := minorSkip (skips m s.a s.l) s
  let s₂ := selected m.cla2 minorCla s₁
  let s₃ := selected m.cli minorCli s₂
  selected m.sti minorSti s₃

/-- The whole OP2 instruction (R205). -/
def runOp2 (ign : BitVec 2) (m : Op2Bits) (s : State) : Result :=
  if irBitsRefused ign s then .refused .opIrBits else .next (op2State m s)

/-- OP2 (R205). -/
def execOp2 (ign : BitVec 2) (m : Op2Bits) (s : State) : Result := runOp2 ign m s

/-- NOP2 (R191). -/
def execNop2 (ign : BitVec 2) (s : State) : Result := runOp2 ign {} s

/-- SNA (R192). -/
def execSna (ign : BitVec 2) (s : State) : Result := runOp2 ign { testN := true } s

/-- SZA (R193). -/
def execSza (ign : BitVec 2) (s : State) : Result := runOp2 ign { testZ := true } s

/-- SSL (R194). -/
def execSsl (ign : BitVec 2) (s : State) : Result := runOp2 ign { testL := true } s

/-- SKIP (R195). -/
def execSkip (ign : BitVec 2) (s : State) : Result := runOp2 ign { g2 := true } s

/-- SNN (R196). -/
def execSnn (ign : BitVec 2) (s : State) : Result := runOp2 ign { g2 := true, testN := true } s

/-- SNZ (R197). -/
def execSnz (ign : BitVec 2) (s : State) : Result := runOp2 ign { g2 := true, testZ := true } s

/-- SCL (R198). -/
def execScl (ign : BitVec 2) (s : State) : Result := runOp2 ign { g2 := true, testL := true } s

/-- CLA2 (R200). -/
def execCla2 (ign : BitVec 2) (s : State) : Result := runOp2 ign { cla2 := true } s

/-- CLI (R201). -/
def execCli (ign : BitVec 2) (s : State) : Result := runOp2 ign { cli := true } s

/-- STI (R202). -/
def execSti (ign : BitVec 2) (s : State) : Result := runOp2 ign { sti := true } s

/-- SNP (R225): OP2 SNA SZA. -/
def execSnp (ign : BitVec 2) (s : State) : Result := runOp2 ign { testN := true, testZ := true } s

/-- SPA (R224): OP2 SNN SNZ. -/
def execSpa (ign : BitVec 2) (s : State) : Result :=
  runOp2 ign { g2 := true, testN := true, testZ := true } s

end Sys2Proof.Machine
end

