-- ==== Sys2Proof/Machine/Reserved.lean ====
section
/-! DEFINITION. RESERVED_E, opcode 1110 (30_encoding.md R90): "A model gives these 4,096 words no
meaning". -/

namespace Sys2Proof.Machine

/-- Opcode 1110 (R90, decision D7, U2): refused, whatever the twelve other bits and the state. -/
def execReservedE (_bits : BitVec 12) (_s : State) : Result := .refused .unassignedOpcode

end Sys2Proof.Machine
end

