-- ==== Sys2Proof/Machine/Dispatch.lean ====
section
/-! DEFINITION. One arm per instruction, each a call of its own meaning. -/

namespace Sys2Proof.Machine

def exec (i : Instr) (s : State) : Host.Outcome State Fault Refusal :=
  match i with
  | .trap ind rel f => Sys2Proof.Machine.execTrap ind rel f s
  | .iot ind rel f => Sys2Proof.Machine.execIot ind rel f s
  | .load ind rel f => Sys2Proof.Machine.execLoad ind rel f s
  | .store ind rel f => Sys2Proof.Machine.execStore ind rel f s
  | .inp ind rel f => Sys2Proof.Machine.execIn ind rel f s
  | .out ind rel f => Sys2Proof.Machine.execOut ind rel f s
  | .jmp ind rel f => Sys2Proof.Machine.execJmp ind rel f s
  | .jsr ind rel f => Sys2Proof.Machine.execJsr ind rel f s
  | .add ind rel f => Sys2Proof.Machine.execAdd ind rel f s
  | .and ind rel f => Sys2Proof.Machine.execAnd ind rel f s
  | .or ind rel f => Sys2Proof.Machine.execOr ind rel f s
  | .xor ind rel f => Sys2Proof.Machine.execXor ind rel f s
  | .op1 ign m => Sys2Proof.Machine.execOp1 ign m s
  | .nop ign => Sys2Proof.Machine.execNop ign s
  | .cla ign => Sys2Proof.Machine.execCla ign s
  | .cll ign => Sys2Proof.Machine.execCll ign s
  | .not ign => Sys2Proof.Machine.execNot ign s
  | .inc ign => Sys2Proof.Machine.execInc ign s
  | .cpl ign => Sys2Proof.Machine.execCpl ign s
  | .rbl ign => Sys2Proof.Machine.execRbl ign s
  | .rbr ign => Sys2Proof.Machine.execRbr ign s
  | .rnl ign => Sys2Proof.Machine.execRnl ign s
  | .rnr ign => Sys2Proof.Machine.execRnr ign s
  | .op2 ign m => Sys2Proof.Machine.execOp2 ign m s
  | .nop2 ign => Sys2Proof.Machine.execNop2 ign s
  | .sna ign => Sys2Proof.Machine.execSna ign s
  | .sza ign => Sys2Proof.Machine.execSza ign s
  | .ssl ign => Sys2Proof.Machine.execSsl ign s
  | .skip ign => Sys2Proof.Machine.execSkip ign s
  | .snn ign => Sys2Proof.Machine.execSnn ign s
  | .snz ign => Sys2Proof.Machine.execSnz ign s
  | .scl ign => Sys2Proof.Machine.execScl ign s
  | .cla2 ign => Sys2Proof.Machine.execCla2 ign s
  | .cli ign => Sys2Proof.Machine.execCli ign s
  | .sti ign => Sys2Proof.Machine.execSti ign s
  | .reservedE bits => Sys2Proof.Machine.execReservedE bits s
  | .lia ign rel f => Sys2Proof.Machine.execLia ign rel f s
  | .li ign f => Sys2Proof.Machine.execLi ign f s
  | .ret => Sys2Proof.Machine.execRet s
  | .rtt => Sys2Proof.Machine.execRtt s
  | .neg ign => Sys2Proof.Machine.execNeg ign s
  | .ing ign => Sys2Proof.Machine.execIng ign s
  | .sbl ign => Sys2Proof.Machine.execSbl ign s
  | .sbr ign => Sys2Proof.Machine.execSbr ign s
  | .snl ign => Sys2Proof.Machine.execSnl ign s
  | .snr ign => Sys2Proof.Machine.execSnr ign s
  | .snp ign => Sys2Proof.Machine.execSnp ign s
  | .spa ign => Sys2Proof.Machine.execSpa ign s

end Sys2Proof.Machine
end

