-- ==== Sys2Proof/Machine/Step.lean ====
section
/-! DEFINITION. One step of the machine (00_scope.md R15, 60_exceptions.md R259), and where a word is
placed so that the next step runs it. -/

namespace Sys2Proof.Machine

/-- The refusal of a word the decoder rejects (30_encoding.md R91, R92). -/
def refusalOf : DecodeError → Refusal
  | .reservedOp1 => .reservedOp1
  | .reservedOp2 => .reservedOp2

/-- Executes the fetched word `w` (R259, with the decoder of 30_encoding.md R97). -/
def runWord (w : Word) (s : State) : Host.Outcome State Fault Refusal :=
  match decode w with
  | .error e => .refused (refusalOf e)
  | .ok i => exec i s

/-- One step (R259): fetch, increment PC, execute, then the interrupt entry if one is buffered. -/
def step (s : State) : Host.Outcome State Fault Refusal :=
  match fetch s with
  | .error r => .fault r
  | .ok s₁ =>
    match runWord s₁.ir s₁ with
    | .next s₂ => boundary s.i s₂
    | .fault r => .fault r
    | .refused r => .refused r

/-- The machine with the word `w` stored where the next step fetches, put there from outside the
machine (log 23): memory at PC, which is RAM from then on if nothing stood there. -/
def State.withFetchWord (s : State) (nbits w : Nat) : State :=
  { s with
    mem := s.mem.write s.pc (BitVec.ofNat 16 (w % 2 ^ nbits))
    cfg := if readable s.pc s then s.cfg
      else { s.cfg with memMap := ⟨s.pc, s.pc, .ram⟩ :: s.cfg.memMap } }

end Sys2Proof.Machine
end

