-- ==== Sys2Proof/Machine/Assembly.lean ====
section
/-! DEFINITION. The assembler's token model (48_assembler_and_macros.md R215 to R217, R223): "nothing
here changes what a word does when executed". It says which word a source line means. -/

namespace Sys2Proof.Machine

/-- The symbols of R217, and LI (R223). `iFlag` is `I`, `rFlag` is `R`. -/
inductive AsmSymbol where
  | trap | iot | load | store | inp | out | jmp | jsr | add | and | or | xor | op1 | op2 | lia
  | iFlag | rFlag
  | nop | cla | cll | not | inc | cpl | rbl | rbr | rnl | rnr
  | nop2 | sna | sza | ssl | skip | snn | snz | scl | cla2 | cli | sti
  | li
deriving DecidableEq, Repr

/-- The symbol table (R217; LI by R223). The source prints none. The base mnemonics are Table 1's base
column. DESIGN CHOICE, unsafe (log 28): whether the minor-operation symbols hold bit 10 "is not in the source"
(R217; "Do not assume", 91_not_in_source.md N28). They are taken without it, as R217's table lists them,
so that the final complement sets bit 10 and `CLL RBL` assembles to C502 where Table 1 prints C102
(90_conflicts.md C18; the two words run alike under `OP_IR_BITS` = ignore). -/
def symbolValue : AsmSymbol → Word
  | .trap => 0x0000#16 | .iot => 0x1000#16 | .load => 0x2000#16 | .store => 0x3000#16
  | .inp => 0x4000#16 | .out => 0x5000#16 | .jmp => 0x6000#16 | .jsr => 0x7000#16
  | .add => 0x8000#16 | .and => 0x9000#16 | .or => 0xA000#16 | .xor => 0xB000#16
  | .op1 => 0xC000#16 | .op2 => 0xD000#16 | .lia => 0xF000#16
  | .iFlag => 0x0800#16 | .rFlag => 0x0400#16
  | .nop => 0xC000#16 | .cla => 0xC200#16 | .cll => 0xC100#16 | .not => 0xC080#16
  | .inc => 0xC040#16 | .cpl => 0xC020#16 | .rbl => 0xC002#16 | .rbr => 0xC001#16
  | .rnl => 0xC006#16 | .rnr => 0xC005#16
  | .nop2 => 0xD000#16 | .sna => 0xD004#16 | .sza => 0xD002#16 | .ssl => 0xD001#16
  | .skip => 0xD008#16 | .snn => 0xD00C#16 | .snz => 0xD00A#16 | .scl => 0xD009#16
  | .cla2 => 0xD040#16 | .cli => 0xD020#16 | .sti => 0xD010#16
  | .li => 0xF400#16

/-- A token of a source line (R215). -/
inductive Token where
  | symbol (x : AsmSymbol)
  | number (v : Word)
deriving DecidableEq, Repr

/-- The 16 bits of a token. -/
def tokenValue : Token → Word
  | .symbol x => symbolValue x
  | .number v => v

/-- The OR of the tokens of a line (R215). -/
def orTokens : List Token → Word
  | [] => 0x0000#16
  | t :: rest => tokenValue t ||| orTokens rest

/-- The word of a source line (R216): the OR of its tokens, bit 10 complemented. -/
def assemble (line : List Token) : Word := orTokens line ^^^ 0x0400#16

end Sys2Proof.Machine
end

