-- ==== Sys2Proof/Machine/Timing.lean ====
section
/-! DEFINITION. The cycle counts of Table 1 (70_reset_and_hazards.md R276) as a cost function. No rule
depends on them and no step uses them (00_scope.md R16, decision D20, log 24). -/

namespace Sys2Proof.Machine

/-- One of the three counts of a memory-reference row: direct, indirect, autoindex. -/
def modeCycles (direct indirect auto : Nat) (ind rel : Bool) (f : Field) (s : State) : Nat :=
  match ind with
  | false => direct
  | true => if autoindexed ind rel f s then auto else indirect

/-- The cycles of an instruction executed in a state whose PC is already `ia + 1` (R276). RET and RTT
have the 11 that Table 1 prints, where JMP's row would give 7 (90_conflicts.md C12, log 24). An
instruction without a meaning has no count. -/
def cycles : Instr → State → Option Nat
  | .trap ind rel f, s => some (modeCycles 7 10 14 ind rel f s)
  | .iot ind rel f, s => some (modeCycles 8 11 15 ind rel f s)
  | .load ind rel f, s => some (modeCycles 7 10 13 ind rel f s)
  | .store ind rel f, s => some (modeCycles 7 10 13 ind rel f s)
  | .inp ind rel f, s => some (modeCycles 6 9 12 ind rel f s)
  | .out ind rel f, s => some (modeCycles 6 9 13 ind rel f s)
  | .jmp ind rel f, s => some (modeCycles 4 7 11 ind rel f s)
  | .jsr ind rel f, s => some (modeCycles 8 11 14 ind rel f s)
  | .add ind rel f, s => some (modeCycles 7 10 14 ind rel f s)
  | .and ind rel f, s => some (modeCycles 7 10 14 ind rel f s)
  | .or ind rel f, s => some (modeCycles 7 10 14 ind rel f s)
  | .xor ind rel f, s => some (modeCycles 7 10 14 ind rel f s)
  | .op1 .., _ | .nop .., _ | .cla .., _ | .cll .., _ | .not .., _ | .inc .., _ | .cpl .., _ => some 11
  | .rbl .., _ | .rbr .., _ | .rnl .., _ | .rnr .., _ => some 11
  | .neg .., _ | .ing .., _ | .sbl .., _ | .sbr .., _ | .snl .., _ | .snr .., _ => some 11
  | .op2 .., _ | .nop2 .., _ | .sna .., _ | .sza .., _ | .ssl .., _ | .skip .., _ => some 12
  | .snn .., _ | .snz .., _ | .scl .., _ | .cla2 .., _ | .cli .., _ | .sti .., _ => some 12
  | .snp .., _ | .spa .., _ => some 12
  | .lia .., _ | .li .., _ => some 4
  | .ret, _ | .rtt, _ => some 11
  | .reservedE .., _ => none

end Sys2Proof.Machine
end

