-- ==== Sys2Proof/Safety.lean ====
section
/-! DEFINITION. The words that claims use: which accesses have a meaning, the closed form of what the
addressing mode does, where an instruction stores, and when a run has ended. -/

namespace Sys2Proof.Safety

open Sys2Proof.Machine

/-! ### The addressing mode in closed form (40_addressing_modes.md R119) -/

/-- The accesses of the addressing mode have a meaning: the pointer can be read, and in autoindex mode
written back. -/
abbrev addressable (ind rel : Bool) (f : Field) (s : State) : Prop :=
  (ind = true → readable (opnd rel f s) s = true) ∧
    (autoindexed ind rel f s = true → accepts (opnd rel f s) s = true)

/-- Memory after the write-back, if any, of the pointer plus one (R117). -/
def afterWriteBack (ind rel : Bool) (f : Field) (s : State) (m : Memory) : Memory :=
  if autoindexed ind rel f s then
    pokeMem s.cfg (opnd rel f s) (effective ind rel f s + 1#16) m
  else m

/-- DR after the addressing mode: the pointer, if there is one (10_state.md R29). -/
def drAfter (ind rel : Bool) (f : Field) (s : State) : Word :=
  if ind then effective ind rel f s else s.dr

/-! ### Where an instruction stores -/

/-- The word an autoindexed instruction writes back to (R116). -/
def writeBackTo (ind rel : Bool) (f : Field) (s : State) : List Word :=
  if autoindexed ind rel f s then [opnd rel f s] else []

/-- The memory words an instruction may store to (20_memory.md R51): STORE its effective address, JSR
word 0000, TRAP word 0001, and each memory-reference instruction the pointer it writes back. -/
def storesTo : Instr → State → List Word
  | .store ind rel f, s => effective ind rel f s :: writeBackTo ind rel f s
  | .jsr ind rel f, s => subretSlot :: writeBackTo ind rel f s
  | .trap ind rel f, s => trapretSlot :: writeBackTo ind rel f s
  | .iot ind rel f, s => writeBackTo ind rel f s
  | .load ind rel f, s => writeBackTo ind rel f s
  | .inp ind rel f, s => writeBackTo ind rel f s
  | .out ind rel f, s => writeBackTo ind rel f s
  | .jmp ind rel f, s => writeBackTo ind rel f s
  | .add ind rel f, s => writeBackTo ind rel f s
  | .and ind rel f, s => writeBackTo ind rel f s
  | .or ind rel f, s => writeBackTo ind rel f s
  | .xor ind rel f, s => writeBackTo ind rel f s
  | .ret, s => writeBackTo true false 0x000#10 s
  | .rtt, s => writeBackTo true false 0x001#10 s
  | .op1 .., _ | .nop .., _ | .cla .., _ | .cll .., _ | .not .., _ | .inc .., _ | .cpl .., _ => []
  | .rbl .., _ | .rbr .., _ | .rnl .., _ | .rnr .., _ => []
  | .op2 .., _ | .nop2 .., _ | .sna .., _ | .sza .., _ | .ssl .., _ | .skip .., _ => []
  | .snn .., _ | .snz .., _ | .scl .., _ | .cla2 .., _ | .cli .., _ | .sti .., _ => []
  | .reservedE .., _ | .lia .., _ | .li .., _ => []
  | .neg .., _ | .ing .., _ | .sbl .., _ | .sbr .., _ | .snl .., _ | .snr .., _ => []
  | .snp .., _ | .spa .., _ => []

/-- The memory numbered as bytes agrees at every byte that belongs to none of the words in `xs`
(byte `k` belongs to word `k / 2`, log 5). -/
def SameOutside (xs : List Word) (m m' : Memory) : Prop :=
  ∀ k : Nat, (∀ x ∈ xs, k / 2 ≠ x.toNat) → m'.byte k = m.byte k

/-- The twelve memory-reference instructions (40_addressing_modes.md R119, R120). -/
def memoryReferences : List (Bool → Bool → Field → Instr) :=
  [.trap, .iot, .load, .store, .inp, .out, .jmp, .jsr, .add, .and, .or, .xor]

/-! ### Which instructions write which register -/

/-- The instructions that write A (10_state.md R21), by the minor operations they select. -/
def writesA : Instr → Bool
  | .load .. | .inp .. | .iot .. | .add .. | .and .. | .or .. | .xor .. | .lia .. | .li .. => true
  | .op1 _ m => m.cla || m.not || m.inc || decide (m.roll ≠ .none)
  | .cla _ | .not _ | .inc _ | .rbl _ | .rbr _ | .rnl _ | .rnr _ => true
  | .neg _ | .ing _ | .sbl _ | .sbr _ | .snl _ | .snr _ => true
  | .op2 _ m => m.cla2
  | .cla2 _ => true
  | .trap .. | .store .. | .out .. | .jmp .. | .jsr .. | .ret | .rtt => false
  | .nop _ | .cll _ | .cpl _ => false
  | .nop2 _ | .sna _ | .sza _ | .ssl _ | .skip _ | .snn _ | .snz _ | .scl _ | .cli _ | .sti _ => false
  | .snp _ | .spa _ => false
  | .reservedE _ => false

/-- The instructions that write L (10_state.md R22): ADD, and the OP1 minor operations CLL, INC, CPL
and the rolls. -/
def writesL : Instr → Bool
  | .add .. => true
  | .op1 _ m => m.cll || m.inc || m.cpl || decide (m.roll ≠ .none)
  | .cll _ | .inc _ | .cpl _ | .rbl _ | .rbr _ | .rnl _ | .rnr _ => true
  | .neg _ | .sbl _ | .sbr _ | .snl _ | .snr _ => true
  | .trap .. | .iot .. | .load .. | .store .. | .inp .. | .out .. | .jmp .. | .jsr .. => false
  | .and .. | .or .. | .xor .. | .lia .. | .li .. | .ret | .rtt => false
  | .nop _ | .cla _ | .not _ | .ing _ => false
  | .op2 .. | .nop2 _ | .sna _ | .sza _ | .ssl _ | .skip _ | .snn _ | .snz _ | .scl _ => false
  | .cla2 _ | .cli _ | .sti _ | .snp _ | .spa _ => false
  | .reservedE _ => false

/-- The instructions that write I (10_state.md R26): the OP2 minor operations CLI and STI. -/
def writesI : Instr → Bool
  | .op2 _ m => m.cli || m.sti
  | .cli _ | .sti _ => true
  | .trap .. | .iot .. | .load .. | .store .. | .inp .. | .out .. | .jmp .. | .jsr .. => false
  | .add .. | .and .. | .or .. | .xor .. | .lia .. | .li .. | .ret | .rtt => false
  | .op1 .. | .nop _ | .cla _ | .cll _ | .not _ | .inc _ | .cpl _ => false
  | .rbl _ | .rbr _ | .rnl _ | .rnr _ => false
  | .neg _ | .ing _ | .sbl _ | .sbr _ | .snl _ | .snr _ => false
  | .nop2 _ | .sna _ | .sza _ | .ssl _ | .skip _ | .snn _ | .snz _ | .scl _ | .cla2 _ => false
  | .snp _ | .spa _ => false
  | .reservedE _ => false

/-- The instructions that set I, the only way from 0 to 1 (10_state.md R26). -/
def setsI : Instr → Bool
  | .op2 _ m => m.sti
  | .sti _ => true
  | .trap .. | .iot .. | .load .. | .store .. | .inp .. | .out .. | .jmp .. | .jsr .. => false
  | .add .. | .and .. | .or .. | .xor .. | .lia .. | .li .. | .ret | .rtt => false
  | .op1 .. | .nop _ | .cla _ | .cll _ | .not _ | .inc _ | .cpl _ => false
  | .rbl _ | .rbr _ | .rnl _ | .rnr _ => false
  | .neg _ | .ing _ | .sbl _ | .sbr _ | .snl _ | .snr _ => false
  | .nop2 _ | .sna _ | .sza _ | .ssl _ | .skip _ | .snn _ | .snz _ | .scl _ | .cla2 _ | .cli _ => false
  | .snp _ | .spa _ => false
  | .reservedE _ => false

/-! ### Several instructions in a row -/

/-- Executes the instructions one after the other, with no fetch between them. -/
def execAll : List Instr → State → Result
  | [], s => .next s
  | i :: rest, s =>
    match exec i s with
    | .next t => execAll rest t
    | .fault r => .fault r
    | .refused r => .refused r

/-- The instruction of a roll alone. -/
def rollAlone (ign : BitVec 2) : Roll → List Instr
  | .none => []
  | .rbl => [.rbl ign]
  | .rbr => [.rbr ign]
  | .rnl => [.rnl ign]
  | .rnr => [.rnr ign]

/-- The selected minor operations of OP1, one instruction each, in the order of 45_op1.md R170. -/
def op1Sequence (ign : BitVec 2) (m : Op1Bits) : List Instr :=
  (if m.cla then [.cla ign] else []) ++ (if m.cll then [.cll ign] else []) ++
    (if m.not then [.not ign] else []) ++ (if m.inc then [.inc ign] else []) ++
    (if m.cpl then [.cpl ign] else []) ++ rollAlone ign m.roll

/-- The state in which the instruction at PC is executed (10_state.md R24). -/
def fetched (s : State) : State :=
  { s with ir := s.mem.word s.pc, mar := s.pc, pc := s.pc + 1#16 }

/-- OP1 and OP2 words with these ignored bits have a meaning (30_encoding.md R93). -/
abbrev irBitsAllowed (ign : BitVec 2) (s : State) : Prop := s.cfg.opIrBits = .ignore ∨ ign = 0#2

/-! ### The end of a run (70_reset_and_hazards.md R278, decision D16, log 25) -/

/-- `END_OF_RUN`: how a harness decides that a run is over. -/
inductive EndOfRun where
  /-- the last step was a direct JMP to its own address and PC is there again, the spec's convention -/
  | selfJump
  /-- a fixed number of steps -/
  | stepCount (n : Nat)
deriving DecidableEq, Repr

/-- The word at PC is a direct JMP whose target is its own address. -/
def atSelfJump (s : State) : Bool :=
  match fetch s with
  | .error _ => false
  | .ok s₁ =>
    match decode s₁.ir with
    | .ok (.jmp false rel f) => decide (opnd rel f s₁ = s.pc)
    | _ => false

/-- The step from `s` to `t` ran a direct JMP to its own address and left PC there: "a harness detects
PC = `ia` after a JMP" (R278). Where the boundary of that JMP enters the interrupt service routine, PC
is the routine's address and the run goes on. -/
def jumpedToItself (s t : State) : Bool := atSelfJump s && decide (t.pc = s.pc)

/-- Whether a run is over, given the states it has passed through, the latest first. -/
def ended : EndOfRun → List State → Bool
  | .selfJump, [] => false
  | .selfJump, [_] => false
  | .selfJump, t :: s :: _ => jumpedToItself s t
  | .stepCount k, states => decide (k < states.length)

/-- The states of a run, the latest first, from those it has passed through until it is over; none where
a step stops or `fuel` more steps are not enough. -/
def runToEnd (e : EndOfRun) : Nat → List State → Option (List State)
  | _, [] => none
  | fuel, t :: past =>
    if ended e (t :: past) then some (t :: past)
    else
      match fuel with
      | 0 => none
      | k + 1 =>
        match step t with
        | .next u => runToEnd e k (u :: t :: past)
        | .fault _ => none
        | .refused _ => none

/-- A safe run: no step of it stops. -/
def runsSafely : Nat → State → Prop
  | 0, _ => True
  | k + 1, s => ∃ t, step s = .next t ∧ runsSafely k t

end Sys2Proof.Safety
end

