-- ==== Sys2Proof/Certificates/Slice0/Obligations.lean ====
section
/-! DEFINITION. The statements for the provers. Where a result statement gives the whole next state as
a record update, every field it does not name is unchanged: it is the instruction's frame as well. PC
in it is already past the instruction (10_state.md R24). -/

open Sys2Proof Sys2Proof.Machine Sys2Proof.Safety

/-! ### Encoding -/

/-- Decode after encode, for every well-formed instruction (30_encoding.md). -/
def Obligations.DecodeOfEncodeIsTheInstruction : Prop :=
  ∀ i : Instr, i.wellFormed = true → decode (encode i) = .ok i

/-- Encode after decode: no bit of a word is lost, and what is decoded is well-formed. -/
def Obligations.EncodeOfDecodeIsTheWord : Prop :=
  ∀ (w : Word) (i : Instr), decode w = .ok i → encode i = w ∧ i.wellFormed = true

/-- Second names (log 21): every instruction's word decodes to its canonical form, which is
well-formed and has the same meaning. -/
def Obligations.SecondNamesDecodeToTheSameMeaning : Prop :=
  ∀ i : Instr, decode (encode i) = .ok i.canonical ∧ i.canonical.wellFormed = true ∧
    ∀ s : State, exec i.canonical s = exec i s

/-- Words written out from the spec's encodings decode to what they stand for. -/
def Obligations.WordsOfTheSpecDecode : Prop :=
  decode 0x2C9A#16 = .ok (.load true true 0x09A#10) ∧
  decode 0x3410#16 = .ok (.store false true 0x010#10) ∧
  decode 0x1005#16 = .ok (.iot false false 0x005#10) ∧
  decode 0x0840#16 = .ok (.trap true false 0x040#10) ∧
  decode 0x8010#16 = .ok (.add false false 0x010#10) ∧
  decode 0xC3E2#16 = .ok (.op1 0#2 ⟨true, true, true, true, true, .rbl⟩) ∧
  decode 0xC0C0#16 = .ok (.neg 0#2) ∧
  decode 0xD068#16 = .ok (.op2 0#2 ⟨true, true, false, true, false, false, false⟩) ∧
  decode 0xD00E#16 = .ok (.spa 0#2) ∧
  decode 0xFC42#16 = .ok (.lia true true 0x042#10) ∧
  decode 0xF350#16 = .ok (.li false 0x350#10) ∧
  decode 0x6800#16 = .ok .ret

/-- The reserved words have no meaning: opcode E, the OP1 patterns and the OP2 patterns, and the
decoder rejects no other word (30_encoding.md; decisions D6 and D7, log 20). -/
def Obligations.ExactlyTheReservedWordsAreRefused : Prop :=
  ∀ (w : Word) (s : State),
    (opcodeOf w = 0xE#4 → runWord w s = .refused .unassignedOpcode) ∧
    (runWord w s = .refused .reservedOp1 ↔
      opcodeOf w = 0xC#4 ∧ (w.getLsbD 4 = true ∨ w.getLsbD 3 = true ∨
        w.extractLsb' 0 3 = 3#3 ∨ w.extractLsb' 0 3 = 4#3 ∨ w.extractLsb' 0 3 = 7#3)) ∧
    (runWord w s = .refused .reservedOp2 ↔
      opcodeOf w = 0xD#4 ∧ (w.getLsbD 9 = true ∨ w.getLsbD 8 = true ∨ w.getLsbD 7 = true)) ∧
    ((∃ e, decode w = .error e) → opcodeOf w = 0xC#4 ∨ opcodeOf w = 0xD#4)

/-- Bits 11:10 of OP1 and OP2 words: ignored, or (`OP_IR_BITS` = refuse) without a meaning when set
(decision D5, log 10). -/
def Obligations.IndirectionBitsOfOp1AndOp2 : Prop :=
  ∀ (w : Word) (s : State), opcodeOf w = 0xC#4 ∨ opcodeOf w = 0xD#4 →
    (s.cfg.opIrBits = .ignore → runWord w s = runWord (w &&& 0xF3FF#16) s) ∧
    (s.cfg.opIrBits = .refuse → ignoredOf w ≠ 0#2 → ∀ i, decode w = .ok i →
      runWord w s = .refused .opIrBits)

/-- LIA's I bit is ignored (30_encoding.md R94). -/
def Obligations.LiaIgnoresTheIndirectionBit : Prop :=
  ∀ (w : Word) (s : State), opcodeOf w = 0xF#4 → runWord w s = runWord (w &&& 0xF7FF#16) s

/-! ### Operands and the addressing modes -/

/-- Operand assembly (40_addressing_modes.md R110), for both values of `PAGE_SOURCE` (R111). -/
def Obligations.OperandAssembly : Prop :=
  ∀ (f : Field) (s : State),
    opnd false f s = f.setWidth 16 ∧
    (s.cfg.pageSource = .instructionAddress →
      opnd true f s = ((s.pc - 1#16) &&& 0xFC00#16) ||| f.setWidth 16) ∧
    (s.cfg.pageSource = .incrementedPc →
      opnd true f s = (s.pc &&& 0xFC00#16) ||| f.setWidth 16)

/-- The effective-address procedure in all its cases: direct and indirect by 40_addressing_modes.md R119,
the pointer plus one wrapping at FFFF by decision D3 (log 16). The model's own are MAR, which holds the
pointer's address (log 3), DR, which holds the pointer (log 4), and the stop at an absent pointer, for which
U12 says "refuse" (log 8). -/
def Obligations.EffectiveAddressProcedure : Prop :=
  ∀ (rel : Bool) (f : Field) (s : State),
    effAddr false rel f s =
      .ok ({ addr := opnd rel f s, indirect := false, wb := none }, s) ∧
    (readable (opnd rel f s) s = true →
      effAddr true rel f s =
        .ok ({ addr := s.mem.word (opnd rel f s), indirect := true,
               wb := if 0x80 ≤ (opnd rel f s).toNat ∧ (opnd rel f s).toNat ≤ 0xFF then
                  some (opnd rel f s, s.mem.word (opnd rel f s) + 1#16) else none },
             { s with mar := opnd rel f s, dr := s.mem.word (opnd rel f s) })) ∧
    (readable (opnd rel f s) s = false →
      effAddr true rel f s = .error (.absentMemory (opnd rel f s)))

/-! ### Memory-reference instructions: the whole next state

The write-back's value wraps at FFFF by decision D3 (log 16); where an access of the instruction
touches the pointer word itself, the order is decision D4 (log 17). MAR is log 3, DR log 4. -/

/-- LOAD (41_memory_load_store.md R130). -/
def Obligations.LoadResult : Prop :=
  ∀ (ind rel : Bool) (f : Field) (s : State),
    addressable ind rel f s → readable (effective ind rel f s) s = true →
    exec (.load ind rel f) s = .next { s with
      a := s.mem.word (effective ind rel f s)
      mar := opnd rel f s
      dr := drAfter ind rel f s
      mem := afterWriteBack ind rel f s s.mem }

/-- STORE (41_memory_load_store.md R131). -/
def Obligations.StoreResult : Prop :=
  ∀ (ind rel : Bool) (f : Field) (s : State),
    addressable ind rel f s → accepts (effective ind rel f s) s = true →
    exec (.store ind rel f) s = .next { s with
      mar := opnd rel f s
      dr := drAfter ind rel f s
      mem := afterWriteBack ind rel f s (pokeMem s.cfg (effective ind rel f s) s.a s.mem) }

/-- ADD (43_arithmetic_logic.md R150): the sum modulo 2^16, L toggled on carry-out. -/
def Obligations.AddResult : Prop :=
  ∀ (ind rel : Bool) (f : Field) (s : State),
    addressable ind rel f s → readable (effective ind rel f s) s = true →
    exec (.add ind rel f) s = .next { s with
      a := s.a + s.mem.word (effective ind rel f s)
      l := if 0x10000 ≤ s.a.toNat + (s.mem.word (effective ind rel f s)).toNat then !s.l else s.l
      mar := opnd rel f s
      dr := drAfter ind rel f s
      mem := afterWriteBack ind rel f s s.mem }

/-- AND, OR and XOR (43_arithmetic_logic.md R151 to R153). -/
def Obligations.LogicResults : Prop :=
  ∀ (ind rel : Bool) (f : Field) (s : State),
    addressable ind rel f s → readable (effective ind rel f s) s = true →
    exec (.and ind rel f) s = .next { s with
      a := s.a &&& s.mem.word (effective ind rel f s)
      mar := opnd rel f s
      dr := drAfter ind rel f s
      mem := afterWriteBack ind rel f s s.mem } ∧
    exec (.or ind rel f) s = .next { s with
      a := s.a ||| s.mem.word (effective ind rel f s)
      mar := opnd rel f s
      dr := drAfter ind rel f s
      mem := afterWriteBack ind rel f s s.mem } ∧
    exec (.xor ind rel f) s = .next { s with
      a := s.a ^^^ s.mem.word (effective ind rel f s)
      mar := opnd rel f s
      dr := drAfter ind rel f s
      mem := afterWriteBack ind rel f s s.mem }

/-- IN (42_io.md R140): A gets the device's answer, the settled one if there is one and else a free
value (log 11); one event. -/
def Obligations.InResult : Prop :=
  ∀ (ind rel : Bool) (f : Field) (s : State), addressable ind rel f s →
    ∃ v : Word, (∀ x xs, s.ioAnswers = x :: xs → v = x) ∧
      exec (.inp ind rel f) s = .next { s with
        a := v
        ioAnswers := s.ioAnswers.tail
        ioTrace := s.ioTrace ++ [.read (effective ind rel f s) v]
        mar := opnd rel f s
        dr := drAfter ind rel f s
        mem := afterWriteBack ind rel f s s.mem }

/-- OUT (42_io.md R141): one event. -/
def Obligations.OutResult : Prop :=
  ∀ (ind rel : Bool) (f : Field) (s : State), addressable ind rel f s →
    exec (.out ind rel f) s = .next { s with
      ioTrace := s.ioTrace ++ [.write (effective ind rel f s) s.a]
      mar := opnd rel f s
      dr := drAfter ind rel f s
      mem := afterWriteBack ind rel f s s.mem }

/-- IOT (42_io.md R142): the write event first, then the read event at the same address. -/
def Obligations.IotResult : Prop :=
  ∀ (ind rel : Bool) (f : Field) (s : State), addressable ind rel f s →
    ∃ v : Word, (∀ x xs, s.ioAnswers = x :: xs → v = x) ∧
      exec (.iot ind rel f) s = .next { s with
        a := v
        ioAnswers := s.ioAnswers.tail
        ioTrace := s.ioTrace ++
          [.write (effective ind rel f s) s.a, .read (effective ind rel f s) v]
        mar := opnd rel f s
        dr := drAfter ind rel f s
        mem := afterWriteBack ind rel f s s.mem }

/-- JMP (44_flow_control.md R161). -/
def Obligations.JmpResult : Prop :=
  ∀ (ind rel : Bool) (f : Field) (s : State), addressable ind rel f s →
    exec (.jmp ind rel f) s = .next { s with
      pc := effective ind rel f s
      mar := if ind then opnd rel f s else s.mar
      dr := drAfter ind rel f s
      mem := afterWriteBack ind rel f s s.mem }

/-- JSR and TRAP (44_flow_control.md R160, R162): PC, which is `ia + 1` (decision D24, log 29), to word
0000 or 0001; the pointer is read before (decision D4, log 17). -/
def Obligations.JsrAndTrapResults : Prop :=
  ∀ (ind rel : Bool) (f : Field) (s : State), addressable ind rel f s →
    (accepts 0x0000#16 s = true →
      exec (.jsr ind rel f) s = .next { s with
        pc := effective ind rel f s
        mar := if autoindexed ind rel f s then opnd rel f s else 0x0000#16
        dr := drAfter ind rel f s
        mem := afterWriteBack ind rel f s (pokeMem s.cfg 0x0000#16 s.pc s.mem) }) ∧
    (accepts 0x0001#16 s = true →
      exec (.trap ind rel f) s = .next { s with
        pc := effective ind rel f s
        mar := if autoindexed ind rel f s then opnd rel f s else 0x0001#16
        dr := drAfter ind rel f s
        mem := afterWriteBack ind rel f s (pokeMem s.cfg 0x0001#16 s.pc s.mem) })

/-- RET and RTT, their words and effects (48_assembler_and_macros.md R219, R220): `PC <-
MemRead(0000, 1)`, `PC <- MemRead(0001, 1)`; no autoindex. -/
def Obligations.RetAndRttResults : Prop :=
  decode 0x6800#16 = .ok .ret ∧ decode 0x6801#16 = .ok .rtt ∧
  ∀ s : State,
    (readable 0x0000#16 s = true → exec .ret s = .next { s with
      pc := s.mem.word 0x0000#16, mar := 0x0000#16, dr := s.mem.word 0x0000#16 }) ∧
    (readable 0x0001#16 s = true → exec .rtt s = .next { s with
      pc := s.mem.word 0x0001#16, mar := 0x0001#16, dr := s.mem.word 0x0001#16 })

/-- A call and its return: RET after JSR, and RTT after TRAP, resume behind the call with A, L and I as
the call found them, and TRAP leaves JSR's word 0000 alone (44_flow_control.md R160, R162, R163). -/
def Obligations.ReturnsResumeBehindTheCall : Prop :=
  ∀ (ind rel : Bool) (f : Field) (s t : State),
    (kindAt s.cfg.memMap 0x0000#16 = .ram → exec (.jsr ind rel f) s = .next t →
      ∃ u, exec .ret t = .next u ∧ u.pc = s.pc ∧ u.a = s.a ∧ u.l = s.l ∧ u.i = s.i) ∧
    (kindAt s.cfg.memMap 0x0001#16 = .ram → exec (.trap ind rel f) s = .next t →
      t.mem.word 0x0000#16 = s.mem.word 0x0000#16 ∧
      ∃ u, exec .rtt t = .next u ∧ u.pc = s.pc ∧ u.a = s.a ∧ u.l = s.l ∧ u.i = s.i)

/-- Where an access has no meaning the model stops (U12, log 8): a pointer, a datum or a target that is
absent, a write to ROM that the harness refuses. -/
def Obligations.AccessesWithoutMeaningStop : Prop :=
  ∀ (ind rel : Bool) (f : Field) (s : State),
    (readable (opnd rel f s) s = false →
      ∀ c ∈ memoryReferences, exec (c true rel f) s = .fault (.absentMemory (opnd rel f s))) ∧
    ((ind = true → readable (opnd rel f s) s = true) →
      (readable (effective ind rel f s) s = false →
        ∀ c ∈ [Instr.load, .add, .and, .or, .xor],
          exec (c ind rel f) s = .fault (.absentMemory (effective ind rel f s))) ∧
      (kindAt s.cfg.memMap (effective ind rel f s) = .absent →
        exec (.store ind rel f) s = .fault (.absentMemory (effective ind rel f s))) ∧
      (kindAt s.cfg.memMap (effective ind rel f s) = .rom → s.cfg.romWrite = .refuse →
        exec (.store ind rel f) s = .fault (.romWrite (effective ind rel f s))))

/-- The other accesses without a meaning (U12, log 8): the slots of JSR, TRAP and the interrupt
entry and the write-back of a pointer where the word takes no write, and RET and RTT where their
slot is absent. -/
def Obligations.SavesAndWriteBacksWithoutMeaningStop : Prop :=
  ∀ (ind rel : Bool) (f : Field) (s : State),
    ((ind = true → readable (opnd rel f s) s = true) →
      (accepts 0x0000#16 s = false →
        exec (.jsr ind rel f) s = .fault (writeFault 0x0000#16 s)) ∧
      (accepts 0x0001#16 s = false →
        exec (.trap ind rel f) s = .fault (writeFault 0x0001#16 s)) ∧
      (autoindexed ind rel f s = true → accepts (opnd rel f s) s = false →
        (∀ c ∈ [Instr.inp, .out, .iot, .jmp],
          exec (c ind rel f) s = .fault (writeFault (opnd rel f s) s)) ∧
        (readable (effective ind rel f s) s = true → ∀ c ∈ [Instr.load, .add, .and, .or, .xor],
          exec (c ind rel f) s = .fault (writeFault (opnd rel f s) s)) ∧
        (accepts (effective ind rel f s) s = true →
          exec (.store ind rel f) s = .fault (writeFault (opnd rel f s) s)) ∧
        (accepts 0x0000#16 s = true →
          exec (.jsr ind rel f) s = .fault (writeFault (opnd rel f s) s)) ∧
        (accepts 0x0001#16 s = true →
          exec (.trap ind rel f) s = .fault (writeFault (opnd rel f s) s)))) ∧
    (readable 0x0000#16 s = false → exec .ret s = .fault (.absentMemory 0x0000#16)) ∧
    (readable 0x0001#16 s = false → exec .rtt s = .fault (.absentMemory 0x0001#16)) ∧
    (s.irqPending = true → accepts 0x0002#16 s = false →
      interruptEntry s = .error (writeFault 0x0002#16 s))

/-! ### OP1 -/

/-- NOP, CLA, CLL, NOT and CPL, their words and effects (45_op1.md R171 to R174, R176). -/
def Obligations.ClearAndComplementResults : Prop :=
  ∀ (ign : BitVec 2) (s : State), irBitsAllowed ign s →
    (∀ p ∈ [(0x000#10, Instr.nop ign), (0x200#10, .cla ign), (0x100#10, .cll ign),
        (0x080#10, .not ign), (0x020#10, .cpl ign)],
      decode (0xC#4 ++ ign ++ p.1) = .ok p.2) ∧
    exec (.nop ign) s = .next s ∧
    exec (.cla ign) s = .next { s with a := 0x0000#16 } ∧
    exec (.cll ign) s = .next { s with l := false } ∧
    exec (.not ign) s = .next { s with a := ~~~s.a } ∧
    exec (.cpl ign) s = .next { s with l := !s.l }

/-- INC (45_op1.md R175), word C040: A + 1 modulo 2^16, L toggled exactly when A was FFFF. -/
def Obligations.IncrementResult : Prop :=
  ∀ (ign : BitVec 2) (s : State), irBitsAllowed ign s →
    decode (0xC#4 ++ ign ++ 0x040#10) = .ok (.inc ign) ∧
    exec (.inc ign) s = .next { s with
      a := s.a + 1#16
      l := if s.a = 0xFFFF#16 then !s.l else s.l }

/-- RBL and RBR (45_op1.md R177, R178), their words, and the 17 bits of (L,A) rotated by one. -/
def Obligations.BitRollResults : Prop :=
  ∀ (ign : BitVec 2) (s : State), irBitsAllowed ign s →
    (∀ p ∈ [(0x002#10, Instr.rbl ign), (0x001#10, .rbr ign)],
      decode (0xC#4 ++ ign ++ p.1) = .ok p.2) ∧
    exec (.rbl ign) s = .next { s with
      a := (s.a <<< 1) ||| (if s.l then 0x0001#16 else 0x0000#16)
      l := s.a.getLsbD 15 } ∧
    exec (.rbr ign) s = .next { s with
      a := (s.a >>> 1) ||| (if s.l then 0x8000#16 else 0x0000#16)
      l := s.a.getLsbD 0 }

/-- RNL and RNR, as the spec decides them (decision D9, log 19): their words, the 17 bits of (L,A)
rotated by four, which is four single rolls; and SNL and SNR, the same with L cleared first, a true
shift only when the bits that come back are 0. -/
def Obligations.NybbleRollResults : Prop :=
  ∀ (ign : BitVec 2) (s : State), irBitsAllowed ign s →
    (∀ p ∈ [(0x006#10, Instr.rnl ign), (0x005#10, .rnr ign), (0x106#10, .snl ign),
        (0x105#10, .snr ign)],
      decode (0xC#4 ++ ign ++ p.1) = .ok p.2) ∧
    exec (.rnl ign) s = .next { s with
      a := (s.a <<< 4) ||| (if s.l then 0x0008#16 else 0x0000#16) ||| (s.a >>> 13)
      l := s.a.getLsbD 12 } ∧
    exec (.rnr ign) s = .next { s with
      a := (s.a >>> 4) ||| (if s.l then 0x1000#16 else 0x0000#16) ||| (s.a <<< 13)
      l := s.a.getLsbD 3 } ∧
    execAll [.rbl ign, .rbl ign, .rbl ign, .rbl ign] s = exec (.rnl ign) s ∧
    execAll [.rbr ign, .rbr ign, .rbr ign, .rbr ign] s = exec (.rnr ign) s ∧
    exec (.snl ign) s = .next { s with
      a := (s.a <<< 4) ||| (s.a >>> 13), l := s.a.getLsbD 12 } ∧
    exec (.snr ign) s = .next { s with
      a := (s.a >>> 4) ||| (s.a <<< 13), l := s.a.getLsbD 3 } ∧
    (s.a.toNat < 0x2000 → exec (.snl ign) s = .next { s with
      a := s.a <<< 4, l := s.a.getLsbD 12 })

/-- OP1 performs the selected minor operations in the fixed order, each on the values the ones before
left, and touches nothing but A and L (45_op1.md, the whole instruction). -/
def Obligations.Op1RunsItsMinorOperationsInOrder : Prop :=
  ∀ (ign : BitVec 2) (m : Op1Bits) (s : State), irBitsAllowed ign s →
    ∃ t, exec (.op1 ign m) s = .next t ∧ execAll (op1Sequence ign m) s = .next t ∧
      t = { s with a := t.a, l := t.l }

/-- NEG and ING, their words and effects (48_assembler_and_macros.md R221, R222). -/
def Obligations.NegateResults : Prop :=
  ∀ (ign : BitVec 2) (s : State), irBitsAllowed ign s →
    decode (0xC#4 ++ ign ++ 0x0C0#10) = .ok (.neg ign) ∧
    encode (.ing ign) = 0xC#4 ++ ign ++ 0x080#10 ∧
    exec (.neg ign) s = .next { s with
      a := 0#16 - s.a
      l := if s.a = 0x0000#16 then !s.l else s.l } ∧
    exec (.ing ign) s = .next { s with a := 0#16 - (s.a + 1#16) }

/-- SBL and SBR, their words and effects (48_assembler_and_macros.md R226, R227). -/
def Obligations.BitShiftResults : Prop :=
  ∀ (ign : BitVec 2) (s : State), irBitsAllowed ign s →
    (∀ p ∈ [(0x102#10, Instr.sbl ign), (0x101#10, .sbr ign)],
      decode (0xC#4 ++ ign ++ p.1) = .ok p.2) ∧
    exec (.sbl ign) s = .next { s with a := s.a <<< 1, l := s.a.getLsbD 15 } ∧
    exec (.sbr ign) s = .next { s with a := s.a >>> 1, l := s.a.getLsbD 0 }

/-! ### OP2 -/

/-- NOP2 and the seven skips, their words and effects (46_op2.md R191 to R198), A read as a two's
complement number. At PC = FFFF the skip wraps to 0000 by decision D2 (log 15). -/
def Obligations.SkipResults : Prop :=
  ∀ (ign : BitVec 2) (s : State), irBitsAllowed ign s →
    (∀ p ∈ [(0x000#10, Instr.nop2 ign), (0x004#10, .sna ign), (0x002#10, .sza ign),
        (0x001#10, .ssl ign), (0x008#10, .skip ign), (0x00C#10, .snn ign), (0x00A#10, .snz ign),
        (0x009#10, .scl ign)],
      decode (0xD#4 ++ ign ++ p.1) = .ok p.2) ∧
    exec (.nop2 ign) s = .next s ∧
    exec (.sna ign) s = .next { s with pc := if s.a.toInt < 0 then s.pc + 1#16 else s.pc } ∧
    exec (.sza ign) s = .next { s with pc := if s.a.toInt = 0 then s.pc + 1#16 else s.pc } ∧
    exec (.ssl ign) s = .next { s with pc := if s.l = true then s.pc + 1#16 else s.pc } ∧
    exec (.skip ign) s = .next { s with pc := s.pc + 1#16 } ∧
    exec (.snn ign) s = .next { s with pc := if 0 ≤ s.a.toInt then s.pc + 1#16 else s.pc } ∧
    exec (.snz ign) s = .next { s with pc := if s.a.toInt ≠ 0 then s.pc + 1#16 else s.pc } ∧
    exec (.scl ign) s = .next { s with pc := if s.l = false then s.pc + 1#16 else s.pc }

/-- SNP and SPA, their words and effects (48_assembler_and_macros.md R224, R225). At PC = FFFF the skip
wraps to 0000 by decision D2 (log 15). -/
def Obligations.SignedSkipMacroResults : Prop :=
  ∀ (ign : BitVec 2) (s : State), irBitsAllowed ign s →
    (∀ p ∈ [(0x006#10, Instr.snp ign), (0x00E#10, .spa ign)],
      decode (0xD#4 ++ ign ++ p.1) = .ok p.2) ∧
    exec (.snp ign) s = .next { s with pc := if s.a.toInt ≤ 0 then s.pc + 1#16 else s.pc } ∧
    exec (.spa ign) s = .next { s with pc := if 0 < s.a.toInt then s.pc + 1#16 else s.pc }

/-- CLA2, CLI and STI alone, their words and effects (46_op2.md R200 to R202). -/
def Obligations.ClearAccumulatorAndInterruptFlagResults : Prop :=
  ∀ (ign : BitVec 2) (s : State), irBitsAllowed ign s →
    (∀ p ∈ [(0x040#10, Instr.cla2 ign), (0x020#10, .cli ign), (0x010#10, .sti ign)],
      decode (0xD#4 ++ ign ++ p.1) = .ok p.2) ∧
    exec (.cla2 ign) s = .next { s with a := 0x0000#16 } ∧
    exec (.cli ign) s = .next { s with i := false } ∧
    exec (.sti ign) s = .next { s with i := true }

/-- Combined conditions: G1 skips when any selected condition holds, G2 when all do, and for equal
test bits the one is the negation of the other (46_op2.md R199). -/
def Obligations.SkipConditionsCombine : Prop :=
  ∀ (n z l : Bool) (m : Op2Bits) (a : Word) (b : Bool),
    (skips { m with g2 := false, testN := n, testZ := z, testL := l } a b = true ↔
      (n = true ∧ a.toInt < 0) ∨ (z = true ∧ a = 0x0000#16) ∨ (l = true ∧ b = true)) ∧
    (skips { m with g2 := true, testN := n, testZ := z, testL := l } a b = true ↔
      (n = true → 0 ≤ a.toInt) ∧ (z = true → a ≠ 0x0000#16) ∧ (l = true → b = false)) ∧
    skips { m with g2 := true, testN := n, testZ := z, testL := l } a b =
      !skips { m with g2 := false, testN := n, testZ := z, testL := l } a b

/-- The whole OP2 instruction: the skip on the entry values, CLA2, CLI, STI (decision D8, log 18);
at PC = FFFF the skip wraps to 0000 (decision D2, log 15). -/
def Obligations.Op2Result : Prop :=
  ∀ (ign : BitVec 2) (m : Op2Bits) (s : State), irBitsAllowed ign s →
    exec (.op2 ign m) s = .next { s with
      pc := if skips m s.a s.l then s.pc + 1#16 else s.pc
      a := if m.cla2 then 0x0000#16 else s.a
      i := if m.sti then true else if m.cli then false else s.i }

/-! ### LIA, LI and the unassigned opcode -/

/-- LIA and LI, their words and effects (47_lia.md R210, R211): no access, no autoindex, L and PC as
they were. -/
def Obligations.LoadImmediateResults : Prop :=
  ∀ (ign rel : Bool) (f : Field) (s : State),
    decode (encodeWord 0xF#4 ign true f) = .ok (.lia ign true f) ∧
    decode (encodeWord 0xF#4 ign false f) = .ok (.li ign f) ∧
    exec (.lia ign rel f) s = .next { s with a := opnd rel f s } ∧
    exec (.li ign f) s = .next { s with a := f.setWidth 16 }

/-- Opcode 1110 has no meaning (decision D7, log 20). -/
def Obligations.UnassignedOpcodeIsRefused : Prop :=
  ∀ (bits : BitVec 12) (s : State), exec (.reservedE bits) s = .refused .unassignedOpcode

/-! ### The step, the fetch and the interrupt -/

/-- A step runs the decoded instruction, in the state the fetch leaves, and then the boundary. That MAR
holds the fetched address is the model's choice (log 3); PC + 1 wraps by decision D2 (log 15). -/
def Obligations.StepRunsTheDecodedInstruction : Prop :=
  ∀ (s : State) (i : Instr), readable s.pc s = true → decode (s.mem.word s.pc) = .ok i →
    step s =
      match exec i { s with ir := s.mem.word s.pc, mar := s.pc, pc := s.pc + 1#16 } with
      | .next u => boundary s.i u
      | .fault r => .fault r
      | .refused r => .refused r

/-- A step stops on a word that the decoder rejects, and on a fetch from an absent address. -/
def Obligations.StepStopsWithoutAnInstruction : Prop :=
  ∀ s : State,
    (readable s.pc s = false → step s = .fault (.absentMemory s.pc)) ∧
    (∀ e, readable s.pc s = true → decode (s.mem.word s.pc) = .error e →
      step s = .refused (refusalOf e))

/-- A word placed from outside is the word the next step fetches (the model's own, log 23; PC + 1 wraps
by decision D2, log 15). -/
def Obligations.PlacedWordIsFetched : Prop :=
  ∀ (s : State) (w : Word),
    ∃ t, fetch (s.withFetchWord 16 w.toNat) = .ok t ∧ t.ir = w ∧ t.pc = s.pc + 1#16

/-- The entry sequence (60_exceptions.md R245): the event consumed, I cleared, PC to word 0002, PC =
FFF8; nothing else but MAR. That MAR then holds 0002 is the model's choice (log 3), not the rule's. -/
def Obligations.InterruptEntrySequence : Prop :=
  ∀ s : State, s.irqPending = true → accepts 0x0002#16 s = true →
    interruptEntry s = .ok { s with
      irqPending := false
      i := false
      mem := pokeMem s.cfg 0x0002#16 s.pc s.mem
      mar := 0x0002#16
      pc := 0xFFF8#16 }

/-- The window (decision D13, log 13) at the boundary after instruction `i`: with a request present and
I = 1 before or after, the interrupt is entered with all effects of `i` done; otherwise nothing but the
environment's own fields moves. That MAR holds 0002 after the entry is the model's choice (log 3). -/
def Obligations.InterruptWindow : Prop :=
  ∀ (s u : State) (i : Instr), readable s.pc s = true → decode (s.mem.word s.pc) = .ok i →
    exec i (fetched s) = .next u → s.irqPending = false →
    (requestPresent u = true → s.i = true ∨ u.i = true → accepts 0x0002#16 s = true →
      step s = .next { u with
        i := false
        mem := pokeMem u.cfg 0x0002#16 u.pc u.mem
        mar := 0x0002#16
        pc := 0xFFF8#16
        irqPending := false
        irqRequests := u.irqRequests.tail
        tick := u.tick + 1 }) ∧
    (requestPresent u = false ∨ (s.i = false ∧ u.i = false) →
      step s = .next { u with irqRequests := u.irqRequests.tail, tick := u.tick + 1 })

/-- The way back from the service routine, JMP I R 0002 (decision D25, log 22): it restores the PC that
the entry saved, and nothing else of A, L and I. -/
def Obligations.ReturnFromInterruptResumes : Prop :=
  ∀ s : State, kindAt s.cfg.memMap 0x0002#16 = .ram →
    ∃ t, exec (.jmp true false 0x002#10) (enterIsr s) = .next t ∧
      t.pc = s.pc ∧ t.a = s.a ∧ t.l = s.l ∧ t.i = false

/-- No step leaves an interrupt buffered: it is set and consumed inside one step (log 14). -/
def Obligations.NoStepLeavesAnInterruptPending : Prop :=
  ∀ s t : State, step s = .next t → t.irqPending = false

/-- I goes from 0 to 1 in no other way than by an instruction that sets it, with no interrupt entered
at its boundary (10_state.md R26). -/
def Obligations.InterruptsAreAllowedOnlyBySti : Prop :=
  ∀ s t : State, step s = .next t → s.i = false → t.i = true →
    ∃ i, decode (s.mem.word s.pc) = .ok i ∧ setsI i = true

/-! ### Whole-machine rules -/

/-- Only the instructions of 10_state.md R21 write A. -/
def Obligations.OnlyTheseInstructionsWriteA : Prop :=
  ∀ (i : Instr) (s t : State), exec i s = .next t → writesA i = false → t.a = s.a

/-- Only ADD and the OP1 minor operations CLL, INC, CPL and the rolls write L (10_state.md R22). -/
def Obligations.OnlyTheseInstructionsWriteL : Prop :=
  ∀ (i : Instr) (s t : State), exec i s = .next t → writesL i = false → t.l = s.l

/-- Only CLI and STI write I (10_state.md R26); no instruction touches the buffered interrupt, the
parameters or the environment's requests. -/
def Obligations.OnlyTheseInstructionsWriteI : Prop :=
  ∀ (i : Instr) (s t : State), exec i s = .next t →
    (writesI i = false → t.i = s.i) ∧ t.irqPending = s.irqPending ∧ t.cfg = s.cfg ∧
      t.irqRequests = s.irqRequests ∧ t.tick = s.tick ∧ t.ir = s.ir

/-- An instruction changes no byte of memory outside the words it stores to (20_memory.md R51). -/
def Obligations.MemoryChangesOnlyWhereStored : Prop :=
  ∀ (i : Instr) (s t : State), exec i s = .next t → SameOutside (storesTo i s) s.mem t.mem

/-- A step changes no byte of memory outside the words its instruction stores to and word 0002. -/
def Obligations.StepChangesOnlyTheStoredWords : Prop :=
  ∀ s t : State, step s = .next t →
    ∃ i, decode (s.mem.word s.pc) = .ok i ∧
      SameOutside (0x0002#16 :: storesTo i (fetched s)) s.mem t.mem

/-- No step changes a word that `MEM_MAP` does not mark as RAM, nor the parameters (log 7, 8). -/
def Obligations.RomAndParametersNeverChange : Prop :=
  ∀ s t : State, step s = .next t →
    t.cfg = s.cfg ∧
    ∀ x : Word, kindAt s.cfg.memMap x ≠ .ram → t.mem.word x = s.mem.word x

/-- Every step keeps the canonical form of memory. -/
def Obligations.StepKeepsMemoryCanonical : Prop :=
  ∀ s t : State, s.mem.wf → step s = .next t → t.mem.wf

/-- I/O events are only ever added at the end, at most two a step, and only by IN, OUT and IOT
(20_memory.md R51, R56). -/
def Obligations.IoEventsAreRecordedInOrder : Prop :=
  ∀ s t : State, step s = .next t →
    ∃ es : List IoEvent, t.ioTrace = s.ioTrace ++ es ∧ es.length ≤ 2 ∧
      (es ≠ [] → opcodeOf (s.mem.word s.pc) = 0x1#4 ∨ opcodeOf (s.mem.word s.pc) = 0x4#4 ∨
        opcodeOf (s.mem.word s.pc) = 0x5#4)

/-- The machine raises no exception and stops on nothing but the words without a meaning: where every
address is RAM, a step of any other word answers a next state (60_exceptions.md R240). ING is among
them only under its word's own name, NOT (log 21). -/
def Obligations.EveryMeaningfulWordRuns : Prop :=
  ∀ s : State, s.cfg.memMap = [] →
    (∀ r, step s ≠ .fault r) ∧
    (s.cfg.opIrBits = .ignore → ∀ i, decode (s.mem.word s.pc) = .ok i →
      opcodeOf (s.mem.word s.pc) ≠ 0xE#4 → ∃ t, step s = .next t)

/-! ### Memory -/

/-- A read returns the most recent write to its address, and no write touches another word; a ROM word
keeps its contents (20_memory.md R62). -/
def Obligations.ReadAfterWrite : Prop :=
  ∀ (x v : Word) (s t : State), memWrite x v s = .ok t →
    (kindAt s.cfg.memMap x = .ram → memRead x t = .ok v) ∧
    (kindAt s.cfg.memMap x = .rom → memRead x t = memRead x s) ∧
    (∀ y : Word, y ≠ x → memRead y t = memRead y s) ∧ (s.mem.wf → t.mem.wf)

/-- A store to the next instruction's address is what the next fetch reads (20_memory.md R64), unless
the store's own pointer write-back goes to the same word. -/
def Obligations.StoreIsSeenByTheNextFetch : Prop :=
  ∀ (ind rel : Bool) (f : Field) (s t : State),
    exec (.store ind rel f) s = .next t → effective ind rel f s = s.pc →
    kindAt s.cfg.memMap s.pc = .ram → ¬(autoindexed ind rel f s = true ∧ opnd rel f s = s.pc) →
    ∃ u, fetch t = .ok u ∧ u.ir = s.a

/-! ### Reset and the end of a run -/

/-- Reset sets PC to FFF0 and clears I (10_state.md R36). The buffered interrupt is 0 by decision D17
(log 14). That a reset in a run keeps memory, RAM included, is the model's choice (log 32): the spec says
only that the CPU does not change it. The reset transition leaves the record of I/O and the parameters alone
too. -/
def Obligations.ResetSetsPcAndClearsI : Prop :=
  State.reset.pc = 0xFFF0#16 ∧ State.reset.i = false ∧ State.reset.irqPending = false ∧
  ∀ s : State, (systemReset s).pc = 0xFFF0#16 ∧ (systemReset s).i = false ∧
    (systemReset s).irqPending = false ∧ (systemReset s).mem = s.mem ∧
    (systemReset s).ioTrace = s.ioTrace ∧ (systemReset s).cfg = s.cfg

/-- The machine after reset meets the invariant: memory is in its canonical form (the model's, log
5, 6). -/
def Obligations.ResetMemoryIsCanonical : Prop := State.reset.mem.wf

/-- The spec's end-of-run convention (decision D16, log 25): at a direct JMP to its own address, with no
interrupt entered, a step changes no architectural state and the run is over after it; where its boundary
enters the interrupt service routine, PC is the routine's address and, unless the jump itself stands
there, the run is not over. -/
def Obligations.SelfJumpStays : Prop :=
  ∀ s : State, atSelfJump s = true → s.irqPending = false →
    (s.i = false ∨ requestPresent (fetched s) = false →
      ∃ t, step s = .next t ∧ t.a = s.a ∧ t.l = s.l ∧ t.pc = s.pc ∧ t.i = s.i ∧ t.mem = s.mem ∧
        t.ioTrace = s.ioTrace ∧ t.irqPending = false ∧ t.cfg = s.cfg ∧ atSelfJump t = true ∧
        ended .selfJump [t, s] = true) ∧
    (s.i = true → requestPresent (fetched s) = true → accepts 0x0002#16 s = true →
      s.pc ≠ 0xFFF8#16 →
      ∃ t, step s = .next t ∧ t.pc = 0xFFF8#16 ∧ ended .selfJump [t, s] = false)

/-! ### Timing and the assembly notation -/

/-- Table 1's cycle counts (70_reset_and_hazards.md R276): direct, indirect and autoindex forms of each
memory-reference instruction; 11, 12 and 4 for OP1, OP2 and LIA with all their second names, ING, which
no word decodes to, among them; 11 for RET and RTT as the table prints, where JMP's row would give 7 (the
model's choice of the two, log 24). Only the unassigned opcode has no count. -/
def Obligations.CycleCounts : Prop :=
  (∀ (i : Instr) (s : State), (∀ bits, i ≠ .reservedE bits) → ∃ n, cycles i s = some n ∧ n ≤ 15) ∧
  (∀ (rel : Bool) (f : Field) (s : State),
    ∀ p ∈ [(Instr.trap, 7, 10, 14), (.iot, 8, 11, 15), (.load, 7, 10, 13), (.store, 7, 10, 13),
        (.inp, 6, 9, 12), (.out, 6, 9, 13), (.jmp, 4, 7, 11), (.jsr, 8, 11, 14), (.add, 7, 10, 14),
        (.and, 7, 10, 14), (.or, 7, 10, 14), (.xor, 7, 10, 14)],
      cycles (p.1 false rel f) s = some p.2.1 ∧
      cycles (p.1 true rel f) s =
        some (if autoindexed true rel f s then p.2.2.2 else p.2.2.1)) ∧
  (∀ (ign : BitVec 2) (s : State), cycles .ret s = some 11 ∧ cycles .rtt s = some 11 ∧
    cycles (.ing ign) s = some 11) ∧
  ∀ (w : Word) (i : Instr) (s : State), decode w = .ok i →
    (opcodeOf w = 0xC#4 → cycles i s = some 11) ∧ (opcodeOf w = 0xD#4 → cycles i s = some 12) ∧
      (opcodeOf w = 0xE#4 → cycles i s = none) ∧ (opcodeOf w = 0xF#4 → cycles i s = some 4)

/-- A source line of a memory-reference instruction or LIA assembles to the word of the one format: the
OR of its tokens with bit 10 complemented (48_assembler_and_macros.md, symbol values by log 28). -/
def Obligations.SourceLinesAssemble : Prop :=
  ∀ (ind rel : Bool) (f : Field),
    ∀ p ∈ [(AsmSymbol.trap, 0x0#4), (.iot, 0x1#4), (.load, 0x2#4), (.store, 0x3#4), (.inp, 0x4#4),
        (.out, 0x5#4), (.jmp, 0x6#4), (.jsr, 0x7#4), (.add, 0x8#4), (.and, 0x9#4), (.or, 0xA#4),
        (.xor, 0xB#4), (.lia, 0xF#4)],
      assemble ([.symbol p.1] ++ (if ind then [.symbol .iFlag] else []) ++
        (if rel then [] else [.symbol .rFlag]) ++ [.number (f.setWidth 16)]) =
      encodeWord p.2 ind rel f
end

