-- ==== Sys2Proof/Laws/Codec.lean ====
section
/-! SUPPORT. The fields of a word built by the encoder, and a word rebuilt from its fields. -/

namespace Sys2Proof

/-- The bits of a word written as opcode, two bits and operand. -/
theorem getLsbD_append_word (o : BitVec 4) (x : BitVec 2) (f : Field) (i : Nat) :
    BitVec.getLsbD (w := 16) (o ++ x ++ f) i =
      if i < 10 then f.getLsbD i
      else if i - 10 < 2 then x.getLsbD (i - 10) else o.getLsbD (i - 10 - 2) := by
  have h₁ := BitVec.getLsbD_append (x := o ++ x) (y := f) (i := i)
  have h₂ := BitVec.getLsbD_append (x := o) (y := x) (i := i - 10)
  exact h₁.trans (by rw [h₂])

/-- The bits of a word in the one format (30_encoding.md R81). -/
theorem getLsbD_encodeWord (o : BitVec 4) (ind rel : Bool) (f : Field) (i : Nat) :
    (encodeWord o ind rel f).getLsbD i =
      if i < 10 then f.getLsbD i
      else if i = 10 then rel else if i = 11 then ind else o.getLsbD (i - 12) := by
  have h₁ := BitVec.getLsbD_append (x := o ++ BitVec.ofBool ind ++ BitVec.ofBool rel) (y := f) (i := i)
  have h₂ := BitVec.getLsbD_append (x := o ++ BitVec.ofBool ind) (y := BitVec.ofBool rel) (i := i - 10)
  have h₃ := BitVec.getLsbD_append (x := o) (y := BitVec.ofBool ind) (i := i - 10 - 1)
  refine h₁.trans ?_
  rw [h₂, h₃]
  split
  · rfl
  · split
    · have : i = 10 := by omega
      subst this; simp
    · split
      · have : i = 11 := by omega
        subst this; simp
      · rw [if_neg (by omega), if_neg (by omega)]
        congr 1

/-! ### The fields of an encoded word -/

@[simp] theorem opcodeOf_append (o : BitVec 4) (x : BitVec 2) (f : Field) :
    opcodeOf (o ++ x ++ f) = o := by
  apply BitVec.eq_of_getLsbD_eq
  intro i hi
  rw [opcodeOf, BitVec.getLsbD_extractLsb', getLsbD_append_word, if_neg (by omega), if_neg (by omega)]
  simp [hi, show 12 + i - 10 - 2 = i by omega]

@[simp] theorem ignoredOf_append (o : BitVec 4) (x : BitVec 2) (f : Field) :
    ignoredOf (o ++ x ++ f) = x := by
  apply BitVec.eq_of_getLsbD_eq
  intro i hi
  rw [ignoredOf, BitVec.getLsbD_extractLsb', getLsbD_append_word, if_neg (by omega), if_pos (by omega)]
  simp [hi]

@[simp] theorem fieldOf_append (o : BitVec 4) (x : BitVec 2) (f : Field) :
    fieldOf (o ++ x ++ f) = f := by
  apply BitVec.eq_of_getLsbD_eq
  intro i hi
  rw [fieldOf, BitVec.getLsbD_extractLsb', getLsbD_append_word, if_pos (by omega)]
  simp [hi]

@[simp] theorem opcodeOf_encodeWord (o : BitVec 4) (ind rel : Bool) (f : Field) :
    opcodeOf (encodeWord o ind rel f) = o := by
  apply BitVec.eq_of_getLsbD_eq
  intro i hi
  rw [opcodeOf, BitVec.getLsbD_extractLsb', getLsbD_encodeWord, if_neg (by omega), if_neg (by omega),
    if_neg (by omega)]
  simp [hi]

@[simp] theorem iBitOf_encodeWord (o : BitVec 4) (ind rel : Bool) (f : Field) :
    iBitOf (encodeWord o ind rel f) = ind := by
  simp [iBitOf, getLsbD_encodeWord, -BitVec.getLsbD_eq_getElem]

@[simp] theorem rBitOf_encodeWord (o : BitVec 4) (ind rel : Bool) (f : Field) :
    rBitOf (encodeWord o ind rel f) = rel := by
  simp [rBitOf, getLsbD_encodeWord, -BitVec.getLsbD_eq_getElem]

@[simp] theorem fieldOf_encodeWord (o : BitVec 4) (ind rel : Bool) (f : Field) :
    fieldOf (encodeWord o ind rel f) = f := by
  apply BitVec.eq_of_getLsbD_eq
  intro i hi
  rw [fieldOf, BitVec.getLsbD_extractLsb', getLsbD_encodeWord, if_pos (by omega)]
  simp [hi]

/-! ### A word from its fields -/

theorem encodeWord_fields (w : Word) :
    encodeWord (opcodeOf w) (iBitOf w) (rBitOf w) (fieldOf w) = w := by
  apply BitVec.eq_of_getLsbD_eq
  intro i hi
  rw [getLsbD_encodeWord, opcodeOf, fieldOf, iBitOf, rBitOf, BitVec.getLsbD_extractLsb',
    BitVec.getLsbD_extractLsb']
  split
  · next h => simp [h]
  · split
    · next h => rw [h]
    · split
      · next h => rw [h]
      · rw [show 12 + (i - 12) = i by omega]
        simp [show i - 12 < 4 by omega]

theorem append_fields (w : Word) : (opcodeOf w ++ ignoredOf w ++ fieldOf w : Word) = w := by
  apply BitVec.eq_of_getLsbD_eq
  intro i hi
  rw [getLsbD_append_word, opcodeOf, fieldOf, ignoredOf, BitVec.getLsbD_extractLsb',
    BitVec.getLsbD_extractLsb', BitVec.getLsbD_extractLsb']
  split
  · next h => simp [h]
  · split
    · next h => rw [show 10 + (i - 10) = i by omega]; simp [h]
    · rw [show 12 + (i - 10 - 2) = i by omega]
      simp [show i - 10 - 2 < 4 by omega]

end Sys2Proof
end

