-- ==== Sys2Proof/Laws/Memory.lean ====
section
/-! SUPPORT. The laws of memory: a read after a write, what a write leaves alone, and that every write
keeps the canonical form. -/

namespace Sys2Proof.Machine

@[simp] theorem Memory.byte_nil (k : Nat) : Memory.byte [] k = Memory.unlisted := rfl

theorem Memory.byte_cons (j : Nat) (b : Byte) (m : Memory) (k : Nat) :
    Memory.byte ((j, b) :: m) k = if j = k then b else m.byte k := rfl

/-! ### Bytes -/

theorem Memory.byte_without_same (m : Memory) (k : Nat) :
    (m.without k).byte k = Memory.unlisted := by
  induction m with
  | nil => rfl
  | cons c m ih =>
    obtain ⟨j, b⟩ := c
    by_cases h : j = k <;> simp [Memory.without, Memory.byte_cons, h, ih]

theorem Memory.byte_without_other (m : Memory) {j k : Nat} (h : j ≠ k) :
    (m.without j).byte k = m.byte k := by
  induction m with
  | nil => rfl
  | cons c m ih =>
    obtain ⟨j', b⟩ := c
    by_cases h' : j' = j
    · subst h'; simp [Memory.without, Memory.byte_cons, h, ih]
    · simp [Memory.without, Memory.byte_cons, h', ih]

theorem Memory.byte_place_same (m : Memory) (k : Nat) (b : Byte) :
    ((m.without k).place k b).byte k = b := by
  induction m with
  | nil => simp [Memory.without, Memory.place, Memory.byte_cons]
  | cons c m ih =>
    obtain ⟨j, c⟩ := c
    by_cases h : j = k
    · simpa [Memory.without, h] using ih
    · by_cases h' : k < j
      · simp [Memory.without, Memory.place, Memory.byte_cons, h, h']
      · simpa [Memory.without, Memory.place, Memory.byte_cons, h, h'] using ih

theorem Memory.byte_place_other (m : Memory) {j k : Nat} (b : Byte) (h : j ≠ k) :
    (m.place j b).byte k = m.byte k := by
  induction m with
  | nil => simp [Memory.place, Memory.byte_cons, h]
  | cons c m ih =>
    obtain ⟨j', c⟩ := c
    by_cases h' : j < j' <;> simp [Memory.place, Memory.byte_cons, h, h', ih]

@[simp] theorem Memory.byte_setByte_same (m : Memory) (k : Nat) (b : Byte) :
    (m.setByte k b).byte k = b := by
  unfold Memory.setByte
  split
  · next h => rw [Memory.byte_without_same, h]
  · exact Memory.byte_place_same m k b

theorem Memory.byte_setByte_other (m : Memory) {j k : Nat} (b : Byte) (h : j ≠ k) :
    (m.setByte j b).byte k = m.byte k := by
  unfold Memory.setByte
  split
  · exact Memory.byte_without_other m h
  · rw [Memory.byte_place_other _ _ h, Memory.byte_without_other m h]

/-! ### Words -/

/-- Byte `k` belongs to word `k / 2`: a write leaves the bytes of every other word alone. -/
theorem Memory.byte_write_other (m : Memory) (x v : Word) {k : Nat} (h : k / 2 ≠ x.toNat) :
    (m.write x v).byte k = m.byte k := by
  unfold Memory.write
  rw [Memory.byte_setByte_other _ _ (by omega), Memory.byte_setByte_other _ _ (by omega)]

@[simp] theorem Memory.word_write_same (m : Memory) (x v : Word) : (m.write x v).word x = v := by
  unfold Memory.word Memory.write
  rw [Memory.byte_setByte_same, Memory.byte_setByte_other _ _ (by omega), Memory.byte_setByte_same]
  ext i hi
  simp only [BitVec.getElem_append, BitVec.getElem_extractLsb']
  split <;> (rw [BitVec.getLsbD_eq_getElem (by omega)]; congr 1; try omega)

theorem Memory.word_write_other (m : Memory) {x y : Word} (v : Word) (h : x ≠ y) :
    (m.write x v).word y = m.word y := by
  have h' : x.toNat ≠ y.toNat := fun e => h (BitVec.eq_of_toNat_eq e)
  unfold Memory.word
  rw [Memory.byte_write_other _ _ _ (by omega), Memory.byte_write_other _ _ _ (by omega)]

/-! ### The canonical form -/

theorem Memory.mem_without {m : Memory} {k : Nat} {c : Host.Cell} (h : c ∈ m.without k) :
    c ∈ m ∧ c.1 ≠ k := by
  induction m with
  | nil => simp [Memory.without] at h
  | cons d m ih =>
    obtain ⟨j, b⟩ := d
    by_cases hj : j = k
    · simp only [Memory.without, hj, ↓reduceIte] at h
      exact ⟨List.mem_cons_of_mem _ (ih h).1, (ih h).2⟩
    · simp only [Memory.without, hj, ↓reduceIte, List.mem_cons] at h
      rcases h with rfl | h
      · exact ⟨List.mem_cons_self, hj⟩
      · exact ⟨List.mem_cons_of_mem _ (ih h).1, (ih h).2⟩

theorem Memory.mem_place {m : Memory} {k : Nat} {b : Byte} {c : Host.Cell}
    (h : c ∈ m.place k b) : c = (k, b) ∨ c ∈ m := by
  induction m with
  | nil => simpa [Memory.place] using h
  | cons d m ih =>
    obtain ⟨j, e⟩ := d
    by_cases hj : k < j
    · simpa [Memory.place, hj] using h
    · simp only [Memory.place, hj, ↓reduceIte, List.mem_cons] at h
      rcases h with rfl | h
      · exact .inr List.mem_cons_self
      · exact (ih h).imp id (List.mem_cons_of_mem _)

theorem Memory.rising_without {m : Memory} (k : Nat)
    (h : m.Pairwise (fun c d => c.1 < d.1)) : (m.without k).Pairwise (fun c d => c.1 < d.1) := by
  induction m with
  | nil => exact h
  | cons d m ih =>
    obtain ⟨j, b⟩ := d
    rw [List.pairwise_cons] at h
    by_cases hj : j = k
    · simpa [Memory.without, hj] using ih h.2
    · simp only [Memory.without, hj, ↓reduceIte, List.pairwise_cons]
      exact ⟨fun c hc => h.1 c (Memory.mem_without hc).1, ih h.2⟩

theorem Memory.rising_place {m : Memory} {k : Nat} (b : Byte)
    (h : m.Pairwise (fun c d => c.1 < d.1)) (hk : ∀ c ∈ m, c.1 ≠ k) :
    (m.place k b).Pairwise (fun c d => c.1 < d.1) := by
  induction m with
  | nil => simp [Memory.place]
  | cons d m ih =>
    obtain ⟨j, e⟩ := d
    have hjk : j ≠ k := hk (j, e) List.mem_cons_self
    rw [List.pairwise_cons] at h
    by_cases hj : k < j
    · simp only [Memory.place, hj, ↓reduceIte, List.pairwise_cons, List.mem_cons]
      refine ⟨?_, h⟩
      rintro c (rfl | hc)
      · exact hj
      · exact lt_trans hj (h.1 c hc)
    · simp only [Memory.place, hj, ↓reduceIte, List.pairwise_cons]
      refine ⟨fun c hc => ?_, ih h.2 fun c hc => hk c (List.mem_cons_of_mem _ hc)⟩
      rcases Memory.mem_place hc with rfl | hc
      · show j < k
        omega
      · exact h.1 c hc

theorem Memory.setByte_wf {m : Memory} {k : Nat} (b : Byte) (h : m.wf) (hk : k < 2 * 65536) :
    (m.setByte k b).wf := by
  unfold Memory.setByte
  split
  · exact ⟨Memory.rising_without k h.1, fun c hc => h.2 c (Memory.mem_without hc).1⟩
  · next hb =>
    refine ⟨Memory.rising_place b (Memory.rising_without k h.1) fun c hc => (Memory.mem_without hc).2,
      fun c hc => ?_⟩
    rcases Memory.mem_place hc with rfl | hc
    · exact ⟨hk, hb⟩
    · exact h.2 c (Memory.mem_without hc).1

/-- Every write of a word keeps the canonical form. -/
theorem Memory.write_wf {m : Memory} (x v : Word) (h : m.wf) : (m.write x v).wf :=
  Memory.setByte_wf _ (Memory.setByte_wf _ h (by have := x.isLt; omega)) (by have := x.isLt; omega)

theorem Memory.reset_wf : State.reset.mem.wf := by
  simp [State.reset, Memory.wf]

/-! ### Writing under `MEM_MAP` -/

theorem pokeMem_ram {cfg : Config} {x : Word} (v : Word) (m : Memory)
    (h : kindAt cfg.memMap x = .ram) : pokeMem cfg x v m = m.write x v := by
  simp [pokeMem, h]

theorem pokeMem_of_not_ram {cfg : Config} {x : Word} (v : Word) (m : Memory)
    (h : kindAt cfg.memMap x ≠ .ram) : pokeMem cfg x v m = m := by
  unfold pokeMem
  split
  · next h' => exact absurd h' h
  · rfl
  · rfl

theorem pokeMem_wf (cfg : Config) (x v : Word) {m : Memory} (h : m.wf) :
    (pokeMem cfg x v m).wf := by
  unfold pokeMem
  split
  · exact Memory.write_wf x v h
  · exact h
  · exact h

theorem byte_pokeMem_other (cfg : Config) (x v : Word) (m : Memory) {k : Nat}
    (h : k / 2 ≠ x.toNat) : (pokeMem cfg x v m).byte k = m.byte k := by
  unfold pokeMem
  split
  · exact Memory.byte_write_other m x v h
  · rfl
  · rfl

theorem word_pokeMem_other (cfg : Config) {x y : Word} (v : Word) (m : Memory) (h : x ≠ y) :
    (pokeMem cfg x v m).word y = m.word y := by
  unfold pokeMem
  split
  · exact Memory.word_write_other m v h
  · rfl
  · rfl

/-- A byte of an address that is not RAM is never changed. -/
theorem byte_pokeMem_not_ram (cfg : Config) (x y v : Word) (m : Memory) {k : Nat}
    (hy : k / 2 = y.toNat) (h : kindAt cfg.memMap y ≠ .ram) :
    (pokeMem cfg x v m).byte k = m.byte k := by
  by_cases hx : x = y
  · subst hx; rw [pokeMem_of_not_ram v m h]
  · exact byte_pokeMem_other cfg x v m fun e => hx (BitVec.eq_of_toNat_eq (by omega))

end Sys2Proof.Machine
end

