-- ==== Sys2Proof/Laws/State.lean ====
section
/-! SUPPORT. The fields of a state after each named update: one lemma per field per update, so that no
proof unfolds a record update. -/

namespace Sys2Proof.Machine

/-! ### `setLink` -/

@[simp] theorem setLink_a (x : BitVec 17) (s : State) : (setLink x s).a = linkA x := rfl
@[simp] theorem setLink_l (x : BitVec 17) (s : State) : (setLink x s).l = linkL x := rfl
@[simp] theorem setLink_pc (x : BitVec 17) (s : State) : (setLink x s).pc = s.pc := rfl
@[simp] theorem setLink_i (x : BitVec 17) (s : State) : (setLink x s).i = s.i := rfl
@[simp] theorem setLink_ir (x : BitVec 17) (s : State) : (setLink x s).ir = s.ir := rfl
@[simp] theorem setLink_mar (x : BitVec 17) (s : State) : (setLink x s).mar = s.mar := rfl
@[simp] theorem setLink_dr (x : BitVec 17) (s : State) : (setLink x s).dr = s.dr := rfl
@[simp] theorem setLink_irqPending (x : BitVec 17) (s : State) :
    (setLink x s).irqPending = s.irqPending := rfl
@[simp] theorem setLink_mem (x : BitVec 17) (s : State) : (setLink x s).mem = s.mem := rfl
@[simp] theorem setLink_ioTrace (x : BitVec 17) (s : State) :
    (setLink x s).ioTrace = s.ioTrace := rfl
@[simp] theorem setLink_ioAnswers (x : BitVec 17) (s : State) :
    (setLink x s).ioAnswers = s.ioAnswers := rfl
@[simp] theorem setLink_irqRequests (x : BitVec 17) (s : State) :
    (setLink x s).irqRequests = s.irqRequests := rfl
@[simp] theorem setLink_tick (x : BitVec 17) (s : State) : (setLink x s).tick = s.tick := rfl
@[simp] theorem setLink_cfg (x : BitVec 17) (s : State) : (setLink x s).cfg = s.cfg := rfl

/-! ### `loadImmediate` -/

@[simp] theorem loadImmediate_a (rel : Bool) (f : Field) (s : State) :
    (loadImmediate rel f s).a = opnd rel f s := rfl
@[simp] theorem loadImmediate_l (rel : Bool) (f : Field) (s : State) :
    (loadImmediate rel f s).l = s.l := rfl
@[simp] theorem loadImmediate_pc (rel : Bool) (f : Field) (s : State) :
    (loadImmediate rel f s).pc = s.pc := rfl
@[simp] theorem loadImmediate_i (rel : Bool) (f : Field) (s : State) :
    (loadImmediate rel f s).i = s.i := rfl
@[simp] theorem loadImmediate_ir (rel : Bool) (f : Field) (s : State) :
    (loadImmediate rel f s).ir = s.ir := rfl
@[simp] theorem loadImmediate_mar (rel : Bool) (f : Field) (s : State) :
    (loadImmediate rel f s).mar = s.mar := rfl
@[simp] theorem loadImmediate_dr (rel : Bool) (f : Field) (s : State) :
    (loadImmediate rel f s).dr = s.dr := rfl
@[simp] theorem loadImmediate_irqPending (rel : Bool) (f : Field) (s : State) :
    (loadImmediate rel f s).irqPending = s.irqPending := rfl
@[simp] theorem loadImmediate_mem (rel : Bool) (f : Field) (s : State) :
    (loadImmediate rel f s).mem = s.mem := rfl
@[simp] theorem loadImmediate_ioTrace (rel : Bool) (f : Field) (s : State) :
    (loadImmediate rel f s).ioTrace = s.ioTrace := rfl
@[simp] theorem loadImmediate_ioAnswers (rel : Bool) (f : Field) (s : State) :
    (loadImmediate rel f s).ioAnswers = s.ioAnswers := rfl
@[simp] theorem loadImmediate_irqRequests (rel : Bool) (f : Field) (s : State) :
    (loadImmediate rel f s).irqRequests = s.irqRequests := rfl
@[simp] theorem loadImmediate_tick (rel : Bool) (f : Field) (s : State) :
    (loadImmediate rel f s).tick = s.tick := rfl
@[simp] theorem loadImmediate_cfg (rel : Bool) (f : Field) (s : State) :
    (loadImmediate rel f s).cfg = s.cfg := rfl

/-! ### `minorCla` -/

@[simp] theorem minorCla_a (s : State) : (minorCla s).a = 0x0000#16 := rfl
@[simp] theorem minorCla_l (s : State) : (minorCla s).l = s.l := rfl
@[simp] theorem minorCla_pc (s : State) : (minorCla s).pc = s.pc := rfl
@[simp] theorem minorCla_i (s : State) : (minorCla s).i = s.i := rfl
@[simp] theorem minorCla_ir (s : State) : (minorCla s).ir = s.ir := rfl
@[simp] theorem minorCla_mar (s : State) : (minorCla s).mar = s.mar := rfl
@[simp] theorem minorCla_dr (s : State) : (minorCla s).dr = s.dr := rfl
@[simp] theorem minorCla_irqPending (s : State) : (minorCla s).irqPending = s.irqPending := rfl
@[simp] theorem minorCla_mem (s : State) : (minorCla s).mem = s.mem := rfl
@[simp] theorem minorCla_ioTrace (s : State) : (minorCla s).ioTrace = s.ioTrace := rfl
@[simp] theorem minorCla_ioAnswers (s : State) : (minorCla s).ioAnswers = s.ioAnswers := rfl
@[simp] theorem minorCla_irqRequests (s : State) : (minorCla s).irqRequests = s.irqRequests := rfl
@[simp] theorem minorCla_tick (s : State) : (minorCla s).tick = s.tick := rfl
@[simp] theorem minorCla_cfg (s : State) : (minorCla s).cfg = s.cfg := rfl

/-! ### `minorCll` -/

@[simp] theorem minorCll_a (s : State) : (minorCll s).a = s.a := rfl
@[simp] theorem minorCll_l (s : State) : (minorCll s).l = false := rfl
@[simp] theorem minorCll_pc (s : State) : (minorCll s).pc = s.pc := rfl
@[simp] theorem minorCll_i (s : State) : (minorCll s).i = s.i := rfl
@[simp] theorem minorCll_ir (s : State) : (minorCll s).ir = s.ir := rfl
@[simp] theorem minorCll_mar (s : State) : (minorCll s).mar = s.mar := rfl
@[simp] theorem minorCll_dr (s : State) : (minorCll s).dr = s.dr := rfl
@[simp] theorem minorCll_irqPending (s : State) : (minorCll s).irqPending = s.irqPending := rfl
@[simp] theorem minorCll_mem (s : State) : (minorCll s).mem = s.mem := rfl
@[simp] theorem minorCll_ioTrace (s : State) : (minorCll s).ioTrace = s.ioTrace := rfl
@[simp] theorem minorCll_ioAnswers (s : State) : (minorCll s).ioAnswers = s.ioAnswers := rfl
@[simp] theorem minorCll_irqRequests (s : State) : (minorCll s).irqRequests = s.irqRequests := rfl
@[simp] theorem minorCll_tick (s : State) : (minorCll s).tick = s.tick := rfl
@[simp] theorem minorCll_cfg (s : State) : (minorCll s).cfg = s.cfg := rfl

/-! ### `minorNot` -/

@[simp] theorem minorNot_a (s : State) : (minorNot s).a = s.a ^^^ 0xFFFF#16 := rfl
@[simp] theorem minorNot_l (s : State) : (minorNot s).l = s.l := rfl
@[simp] theorem minorNot_pc (s : State) : (minorNot s).pc = s.pc := rfl
@[simp] theorem minorNot_i (s : State) : (minorNot s).i = s.i := rfl
@[simp] theorem minorNot_ir (s : State) : (minorNot s).ir = s.ir := rfl
@[simp] theorem minorNot_mar (s : State) : (minorNot s).mar = s.mar := rfl
@[simp] theorem minorNot_dr (s : State) : (minorNot s).dr = s.dr := rfl
@[simp] theorem minorNot_irqPending (s : State) : (minorNot s).irqPending = s.irqPending := rfl
@[simp] theorem minorNot_mem (s : State) : (minorNot s).mem = s.mem := rfl
@[simp] theorem minorNot_ioTrace (s : State) : (minorNot s).ioTrace = s.ioTrace := rfl
@[simp] theorem minorNot_ioAnswers (s : State) : (minorNot s).ioAnswers = s.ioAnswers := rfl
@[simp] theorem minorNot_irqRequests (s : State) : (minorNot s).irqRequests = s.irqRequests := rfl
@[simp] theorem minorNot_tick (s : State) : (minorNot s).tick = s.tick := rfl
@[simp] theorem minorNot_cfg (s : State) : (minorNot s).cfg = s.cfg := rfl

/-! ### `minorCpl` -/

@[simp] theorem minorCpl_a (s : State) : (minorCpl s).a = s.a := rfl
@[simp] theorem minorCpl_l (s : State) : (minorCpl s).l = (s.l ^^ true) := rfl
@[simp] theorem minorCpl_pc (s : State) : (minorCpl s).pc = s.pc := rfl
@[simp] theorem minorCpl_i (s : State) : (minorCpl s).i = s.i := rfl
@[simp] theorem minorCpl_ir (s : State) : (minorCpl s).ir = s.ir := rfl
@[simp] theorem minorCpl_mar (s : State) : (minorCpl s).mar = s.mar := rfl
@[simp] theorem minorCpl_dr (s : State) : (minorCpl s).dr = s.dr := rfl
@[simp] theorem minorCpl_irqPending (s : State) : (minorCpl s).irqPending = s.irqPending := rfl
@[simp] theorem minorCpl_mem (s : State) : (minorCpl s).mem = s.mem := rfl
@[simp] theorem minorCpl_ioTrace (s : State) : (minorCpl s).ioTrace = s.ioTrace := rfl
@[simp] theorem minorCpl_ioAnswers (s : State) : (minorCpl s).ioAnswers = s.ioAnswers := rfl
@[simp] theorem minorCpl_irqRequests (s : State) : (minorCpl s).irqRequests = s.irqRequests := rfl
@[simp] theorem minorCpl_tick (s : State) : (minorCpl s).tick = s.tick := rfl
@[simp] theorem minorCpl_cfg (s : State) : (minorCpl s).cfg = s.cfg := rfl

/-! ### `minorInc` -/

@[simp] theorem minorInc_a (s : State) : (minorInc s).a = linkA (link s.l s.a + 1#17) := rfl
@[simp] theorem minorInc_l (s : State) : (minorInc s).l = linkL (link s.l s.a + 1#17) := rfl
@[simp] theorem minorInc_pc (s : State) : (minorInc s).pc = s.pc := rfl
@[simp] theorem minorInc_i (s : State) : (minorInc s).i = s.i := rfl
@[simp] theorem minorInc_ir (s : State) : (minorInc s).ir = s.ir := rfl
@[simp] theorem minorInc_mar (s : State) : (minorInc s).mar = s.mar := rfl
@[simp] theorem minorInc_dr (s : State) : (minorInc s).dr = s.dr := rfl
@[simp] theorem minorInc_irqPending (s : State) : (minorInc s).irqPending = s.irqPending := rfl
@[simp] theorem minorInc_mem (s : State) : (minorInc s).mem = s.mem := rfl
@[simp] theorem minorInc_ioTrace (s : State) : (minorInc s).ioTrace = s.ioTrace := rfl
@[simp] theorem minorInc_ioAnswers (s : State) : (minorInc s).ioAnswers = s.ioAnswers := rfl
@[simp] theorem minorInc_irqRequests (s : State) : (minorInc s).irqRequests = s.irqRequests := rfl
@[simp] theorem minorInc_tick (s : State) : (minorInc s).tick = s.tick := rfl
@[simp] theorem minorInc_cfg (s : State) : (minorInc s).cfg = s.cfg := rfl

/-! ### `minorRoll` -/

@[simp] theorem minorRoll_a (r : Roll) (s : State) :
    (minorRoll r s).a = linkA (roll17 r (link s.l s.a)) := rfl
@[simp] theorem minorRoll_l (r : Roll) (s : State) :
    (minorRoll r s).l = linkL (roll17 r (link s.l s.a)) := rfl
@[simp] theorem minorRoll_pc (r : Roll) (s : State) : (minorRoll r s).pc = s.pc := rfl
@[simp] theorem minorRoll_i (r : Roll) (s : State) : (minorRoll r s).i = s.i := rfl
@[simp] theorem minorRoll_ir (r : Roll) (s : State) : (minorRoll r s).ir = s.ir := rfl
@[simp] theorem minorRoll_mar (r : Roll) (s : State) : (minorRoll r s).mar = s.mar := rfl
@[simp] theorem minorRoll_dr (r : Roll) (s : State) : (minorRoll r s).dr = s.dr := rfl
@[simp] theorem minorRoll_irqPending (r : Roll) (s : State) :
    (minorRoll r s).irqPending = s.irqPending := rfl
@[simp] theorem minorRoll_mem (r : Roll) (s : State) : (minorRoll r s).mem = s.mem := rfl
@[simp] theorem minorRoll_ioTrace (r : Roll) (s : State) :
    (minorRoll r s).ioTrace = s.ioTrace := rfl
@[simp] theorem minorRoll_ioAnswers (r : Roll) (s : State) :
    (minorRoll r s).ioAnswers = s.ioAnswers := rfl
@[simp] theorem minorRoll_irqRequests (r : Roll) (s : State) :
    (minorRoll r s).irqRequests = s.irqRequests := rfl
@[simp] theorem minorRoll_tick (r : Roll) (s : State) : (minorRoll r s).tick = s.tick := rfl
@[simp] theorem minorRoll_cfg (r : Roll) (s : State) : (minorRoll r s).cfg = s.cfg := rfl

/-! ### `minorSkip` -/

@[simp] theorem minorSkip_a (b : Bool) (s : State) : (minorSkip b s).a = s.a := rfl
@[simp] theorem minorSkip_l (b : Bool) (s : State) : (minorSkip b s).l = s.l := rfl
@[simp] theorem minorSkip_pc (b : Bool) (s : State) : (minorSkip b s).pc = if b then s.pc + 1#16 else s.pc := rfl
@[simp] theorem minorSkip_i (b : Bool) (s : State) : (minorSkip b s).i = s.i := rfl
@[simp] theorem minorSkip_ir (b : Bool) (s : State) : (minorSkip b s).ir = s.ir := rfl
@[simp] theorem minorSkip_mar (b : Bool) (s : State) : (minorSkip b s).mar = s.mar := rfl
@[simp] theorem minorSkip_dr (b : Bool) (s : State) : (minorSkip b s).dr = s.dr := rfl
@[simp] theorem minorSkip_irqPending (b : Bool) (s : State) : (minorSkip b s).irqPending = s.irqPending := rfl
@[simp] theorem minorSkip_mem (b : Bool) (s : State) : (minorSkip b s).mem = s.mem := rfl
@[simp] theorem minorSkip_ioTrace (b : Bool) (s : State) : (minorSkip b s).ioTrace = s.ioTrace := rfl
@[simp] theorem minorSkip_ioAnswers (b : Bool) (s : State) : (minorSkip b s).ioAnswers = s.ioAnswers := rfl
@[simp] theorem minorSkip_irqRequests (b : Bool) (s : State) : (minorSkip b s).irqRequests = s.irqRequests := rfl
@[simp] theorem minorSkip_tick (b : Bool) (s : State) : (minorSkip b s).tick = s.tick := rfl
@[simp] theorem minorSkip_cfg (b : Bool) (s : State) : (minorSkip b s).cfg = s.cfg := rfl

/-! ### `minorCli` -/

@[simp] theorem minorCli_a (s : State) : (minorCli s).a = s.a := rfl
@[simp] theorem minorCli_l (s : State) : (minorCli s).l = s.l := rfl
@[simp] theorem minorCli_pc (s : State) : (minorCli s).pc = s.pc := rfl
@[simp] theorem minorCli_i (s : State) : (minorCli s).i = false := rfl
@[simp] theorem minorCli_ir (s : State) : (minorCli s).ir = s.ir := rfl
@[simp] theorem minorCli_mar (s : State) : (minorCli s).mar = s.mar := rfl
@[simp] theorem minorCli_dr (s : State) : (minorCli s).dr = s.dr := rfl
@[simp] theorem minorCli_irqPending (s : State) : (minorCli s).irqPending = s.irqPending := rfl
@[simp] theorem minorCli_mem (s : State) : (minorCli s).mem = s.mem := rfl
@[simp] theorem minorCli_ioTrace (s : State) : (minorCli s).ioTrace = s.ioTrace := rfl
@[simp] theorem minorCli_ioAnswers (s : State) : (minorCli s).ioAnswers = s.ioAnswers := rfl
@[simp] theorem minorCli_irqRequests (s : State) : (minorCli s).irqRequests = s.irqRequests := rfl
@[simp] theorem minorCli_tick (s : State) : (minorCli s).tick = s.tick := rfl
@[simp] theorem minorCli_cfg (s : State) : (minorCli s).cfg = s.cfg := rfl

/-! ### `minorSti` -/

@[simp] theorem minorSti_a (s : State) : (minorSti s).a = s.a := rfl
@[simp] theorem minorSti_l (s : State) : (minorSti s).l = s.l := rfl
@[simp] theorem minorSti_pc (s : State) : (minorSti s).pc = s.pc := rfl
@[simp] theorem minorSti_i (s : State) : (minorSti s).i = true := rfl
@[simp] theorem minorSti_ir (s : State) : (minorSti s).ir = s.ir := rfl
@[simp] theorem minorSti_mar (s : State) : (minorSti s).mar = s.mar := rfl
@[simp] theorem minorSti_dr (s : State) : (minorSti s).dr = s.dr := rfl
@[simp] theorem minorSti_irqPending (s : State) : (minorSti s).irqPending = s.irqPending := rfl
@[simp] theorem minorSti_mem (s : State) : (minorSti s).mem = s.mem := rfl
@[simp] theorem minorSti_ioTrace (s : State) : (minorSti s).ioTrace = s.ioTrace := rfl
@[simp] theorem minorSti_ioAnswers (s : State) : (minorSti s).ioAnswers = s.ioAnswers := rfl
@[simp] theorem minorSti_irqRequests (s : State) : (minorSti s).irqRequests = s.irqRequests := rfl
@[simp] theorem minorSti_tick (s : State) : (minorSti s).tick = s.tick := rfl
@[simp] theorem minorSti_cfg (s : State) : (minorSti s).cfg = s.cfg := rfl

/-! ### `putOut` -/

@[simp] theorem putOut_a (ea : EA) (s : State) : (putOut ea s).a = s.a := rfl
@[simp] theorem putOut_l (ea : EA) (s : State) : (putOut ea s).l = s.l := rfl
@[simp] theorem putOut_pc (ea : EA) (s : State) : (putOut ea s).pc = s.pc := rfl
@[simp] theorem putOut_i (ea : EA) (s : State) : (putOut ea s).i = s.i := rfl
@[simp] theorem putOut_ir (ea : EA) (s : State) : (putOut ea s).ir = s.ir := rfl
@[simp] theorem putOut_mar (ea : EA) (s : State) :
    (putOut ea s).mar = (if ea.indirect then s.mar else ea.addr) := rfl
@[simp] theorem putOut_dr (ea : EA) (s : State) : (putOut ea s).dr = s.dr := rfl
@[simp] theorem putOut_irqPending (ea : EA) (s : State) :
    (putOut ea s).irqPending = s.irqPending := rfl
@[simp] theorem putOut_mem (ea : EA) (s : State) : (putOut ea s).mem = s.mem := rfl
@[simp] theorem putOut_ioTrace (ea : EA) (s : State) : (putOut ea s).ioTrace = s.ioTrace := rfl
@[simp] theorem putOut_ioAnswers (ea : EA) (s : State) :
    (putOut ea s).ioAnswers = s.ioAnswers := rfl
@[simp] theorem putOut_irqRequests (ea : EA) (s : State) :
    (putOut ea s).irqRequests = s.irqRequests := rfl
@[simp] theorem putOut_tick (ea : EA) (s : State) : (putOut ea s).tick = s.tick := rfl
@[simp] theorem putOut_cfg (ea : EA) (s : State) : (putOut ea s).cfg = s.cfg := rfl

/-! ### `ioReadToA` -/

@[simp] theorem ioReadToA_a (x : Word) (s : State) : (ioReadToA x s).a = ioAnswer x s := rfl
@[simp] theorem ioReadToA_l (x : Word) (s : State) : (ioReadToA x s).l = s.l := rfl
@[simp] theorem ioReadToA_pc (x : Word) (s : State) : (ioReadToA x s).pc = s.pc := rfl
@[simp] theorem ioReadToA_i (x : Word) (s : State) : (ioReadToA x s).i = s.i := rfl
@[simp] theorem ioReadToA_ir (x : Word) (s : State) : (ioReadToA x s).ir = s.ir := rfl
@[simp] theorem ioReadToA_mar (x : Word) (s : State) : (ioReadToA x s).mar = s.mar := rfl
@[simp] theorem ioReadToA_dr (x : Word) (s : State) : (ioReadToA x s).dr = s.dr := rfl
@[simp] theorem ioReadToA_irqPending (x : Word) (s : State) :
    (ioReadToA x s).irqPending = s.irqPending := rfl
@[simp] theorem ioReadToA_mem (x : Word) (s : State) : (ioReadToA x s).mem = s.mem := rfl
@[simp] theorem ioReadToA_ioTrace (x : Word) (s : State) :
    (ioReadToA x s).ioTrace = s.ioTrace ++ [.read x (ioAnswer x s)] := rfl
@[simp] theorem ioReadToA_ioAnswers (x : Word) (s : State) :
    (ioReadToA x s).ioAnswers = s.ioAnswers.tail := rfl
@[simp] theorem ioReadToA_irqRequests (x : Word) (s : State) :
    (ioReadToA x s).irqRequests = s.irqRequests := rfl
@[simp] theorem ioReadToA_tick (x : Word) (s : State) : (ioReadToA x s).tick = s.tick := rfl
@[simp] theorem ioReadToA_cfg (x : Word) (s : State) : (ioReadToA x s).cfg = s.cfg := rfl

/-! ### `ioWriteFromA` -/

@[simp] theorem ioWriteFromA_a (x : Word) (s : State) : (ioWriteFromA x s).a = s.a := rfl
@[simp] theorem ioWriteFromA_l (x : Word) (s : State) : (ioWriteFromA x s).l = s.l := rfl
@[simp] theorem ioWriteFromA_pc (x : Word) (s : State) : (ioWriteFromA x s).pc = s.pc := rfl
@[simp] theorem ioWriteFromA_i (x : Word) (s : State) : (ioWriteFromA x s).i = s.i := rfl
@[simp] theorem ioWriteFromA_ir (x : Word) (s : State) : (ioWriteFromA x s).ir = s.ir := rfl
@[simp] theorem ioWriteFromA_mar (x : Word) (s : State) : (ioWriteFromA x s).mar = s.mar := rfl
@[simp] theorem ioWriteFromA_dr (x : Word) (s : State) : (ioWriteFromA x s).dr = s.dr := rfl
@[simp] theorem ioWriteFromA_irqPending (x : Word) (s : State) :
    (ioWriteFromA x s).irqPending = s.irqPending := rfl
@[simp] theorem ioWriteFromA_mem (x : Word) (s : State) : (ioWriteFromA x s).mem = s.mem := rfl
@[simp] theorem ioWriteFromA_ioTrace (x : Word) (s : State) :
    (ioWriteFromA x s).ioTrace = s.ioTrace ++ [.write x s.a] := rfl
@[simp] theorem ioWriteFromA_ioAnswers (x : Word) (s : State) :
    (ioWriteFromA x s).ioAnswers = s.ioAnswers := rfl
@[simp] theorem ioWriteFromA_irqRequests (x : Word) (s : State) :
    (ioWriteFromA x s).irqRequests = s.irqRequests := rfl
@[simp] theorem ioWriteFromA_tick (x : Word) (s : State) : (ioWriteFromA x s).tick = s.tick := rfl
@[simp] theorem ioWriteFromA_cfg (x : Word) (s : State) : (ioWriteFromA x s).cfg = s.cfg := rfl

/-! ### `noticeRequest` -/

@[simp] theorem noticeRequest_a (b : Bool) (s : State) : (noticeRequest b s).a = s.a := rfl
@[simp] theorem noticeRequest_l (b : Bool) (s : State) : (noticeRequest b s).l = s.l := rfl
@[simp] theorem noticeRequest_pc (b : Bool) (s : State) : (noticeRequest b s).pc = s.pc := rfl
@[simp] theorem noticeRequest_i (b : Bool) (s : State) : (noticeRequest b s).i = s.i := rfl
@[simp] theorem noticeRequest_ir (b : Bool) (s : State) : (noticeRequest b s).ir = s.ir := rfl
@[simp] theorem noticeRequest_mar (b : Bool) (s : State) : (noticeRequest b s).mar = s.mar := rfl
@[simp] theorem noticeRequest_dr (b : Bool) (s : State) : (noticeRequest b s).dr = s.dr := rfl
@[simp] theorem noticeRequest_irqPending (b : Bool) (s : State) :
    (noticeRequest b s).irqPending = (s.irqPending || ((b || s.i) && requestPresent s)) := rfl
@[simp] theorem noticeRequest_mem (b : Bool) (s : State) : (noticeRequest b s).mem = s.mem := rfl
@[simp] theorem noticeRequest_ioTrace (b : Bool) (s : State) :
    (noticeRequest b s).ioTrace = s.ioTrace := rfl
@[simp] theorem noticeRequest_ioAnswers (b : Bool) (s : State) :
    (noticeRequest b s).ioAnswers = s.ioAnswers := rfl
@[simp] theorem noticeRequest_irqRequests (b : Bool) (s : State) :
    (noticeRequest b s).irqRequests = s.irqRequests.tail := rfl
@[simp] theorem noticeRequest_tick (b : Bool) (s : State) :
    (noticeRequest b s).tick = s.tick + 1 := rfl
@[simp] theorem noticeRequest_cfg (b : Bool) (s : State) : (noticeRequest b s).cfg = s.cfg := rfl

/-! ### `enterIsr` -/

@[simp] theorem enterIsr_a (s : State) : (enterIsr s).a = s.a := rfl
@[simp] theorem enterIsr_l (s : State) : (enterIsr s).l = s.l := rfl
@[simp] theorem enterIsr_pc (s : State) : (enterIsr s).pc = isrEntry := rfl
@[simp] theorem enterIsr_i (s : State) : (enterIsr s).i = false := rfl
@[simp] theorem enterIsr_ir (s : State) : (enterIsr s).ir = s.ir := rfl
@[simp] theorem enterIsr_mar (s : State) : (enterIsr s).mar = isrretSlot := rfl
@[simp] theorem enterIsr_dr (s : State) : (enterIsr s).dr = s.dr := rfl
@[simp] theorem enterIsr_irqPending (s : State) : (enterIsr s).irqPending = false := rfl
@[simp] theorem enterIsr_mem (s : State) :
    (enterIsr s).mem = pokeMem s.cfg isrretSlot s.pc s.mem := rfl
@[simp] theorem enterIsr_ioTrace (s : State) : (enterIsr s).ioTrace = s.ioTrace := rfl
@[simp] theorem enterIsr_ioAnswers (s : State) : (enterIsr s).ioAnswers = s.ioAnswers := rfl
@[simp] theorem enterIsr_irqRequests (s : State) : (enterIsr s).irqRequests = s.irqRequests := rfl
@[simp] theorem enterIsr_tick (s : State) : (enterIsr s).tick = s.tick := rfl
@[simp] theorem enterIsr_cfg (s : State) : (enterIsr s).cfg = s.cfg := rfl

/-! ### `systemReset` -/

@[simp] theorem systemReset_a (s : State) : (systemReset s).a = Config.resetA (s.tick + 1) := rfl
@[simp] theorem systemReset_l (s : State) : (systemReset s).l = Config.resetL (s.tick + 1) := rfl
@[simp] theorem systemReset_pc (s : State) : (systemReset s).pc = bootEntry := rfl
@[simp] theorem systemReset_i (s : State) : (systemReset s).i = false := rfl
@[simp] theorem systemReset_ir (s : State) : (systemReset s).ir = Config.resetIr (s.tick + 1) := rfl
@[simp] theorem systemReset_mar (s : State) :
    (systemReset s).mar = Config.resetMar (s.tick + 1) := rfl
@[simp] theorem systemReset_dr (s : State) : (systemReset s).dr = Config.resetDr (s.tick + 1) := rfl
@[simp] theorem systemReset_irqPending (s : State) : (systemReset s).irqPending = false := rfl
@[simp] theorem systemReset_mem (s : State) : (systemReset s).mem = s.mem := rfl
@[simp] theorem systemReset_ioTrace (s : State) : (systemReset s).ioTrace = s.ioTrace := rfl
@[simp] theorem systemReset_ioAnswers (s : State) : (systemReset s).ioAnswers = s.ioAnswers := rfl
@[simp] theorem systemReset_irqRequests (s : State) :
    (systemReset s).irqRequests = s.irqRequests := rfl
@[simp] theorem systemReset_tick (s : State) : (systemReset s).tick = s.tick + 1 := rfl
@[simp] theorem systemReset_cfg (s : State) : (systemReset s).cfg = s.cfg := rfl

end Sys2Proof.Machine
end

