-- ==== Sys2Proof/Laws/Ops.lean ====
section
/-! SUPPORT. For each shared operation, once, everything it can do. -/

namespace Sys2Proof.Machine

/-! ### Memory accesses -/

theorem memRead_eq_ok {x : Word} {s : State} {v : Word} :
    memRead x s = .ok v ↔ readable x s = true ∧ v = s.mem.word x := by
  unfold memRead
  by_cases h : readable x s = true
  · simp [h, @eq_comm _ v]
  · simp [h]

theorem memRead_of_readable {x : Word} {s : State} (h : readable x s = true) :
    memRead x s = .ok (s.mem.word x) := memRead_eq_ok.2 ⟨h, rfl⟩

theorem memRead_of_not_readable {x : Word} {s : State} (h : readable x s = false) :
    memRead x s = .error (.absentMemory x) := by simp [memRead, h]

theorem memWrite_eq_ok {x v : Word} {s t : State} :
    memWrite x v s = .ok t ↔
      accepts x s = true ∧ t = { s with mem := pokeMem s.cfg x v s.mem } := by
  unfold memWrite
  by_cases h : accepts x s = true
  · simp [h, @eq_comm _ t]
  · simp [h]

theorem memWrite_of_accepts {x : Word} (v : Word) {s : State} (h : accepts x s = true) :
    memWrite x v s = .ok { s with mem := pokeMem s.cfg x v s.mem } := memWrite_eq_ok.2 ⟨h, rfl⟩

theorem memWrite_of_not_accepts {x : Word} (v : Word) {s : State} (h : accepts x s = false) :
    memWrite x v s = .error (writeFault x s) := by simp [memWrite, h]

/-- Readability looks at `MEM_MAP` alone. -/
theorem readable_congr {s t : State} (x : Word) (h : t.cfg = s.cfg) : readable x t = readable x s := by
  simp [readable, h]

/-- Whether a write is accepted depends on the parameters alone. -/
theorem accepts_congr {s t : State} (x : Word) (h : t.cfg = s.cfg) : accepts x t = accepts x s := by
  simp [accepts, h]

theorem readable_of_accepts {x : Word} {s : State} (h : accepts x s = true) :
    readable x s = true := by
  unfold accepts at h
  unfold readable
  split <;> simp_all

theorem readable_of_all_ram {x : Word} {s : State} (h : s.cfg.memMap = []) : readable x s = true := by
  simp [readable, h, kindAt]

theorem accepts_of_all_ram {x : Word} {s : State} (h : s.cfg.memMap = []) : accepts x s = true := by
  simp [accepts, h, kindAt]

theorem accepts_of_ram {x : Word} {s : State} (h : kindAt s.cfg.memMap x = .ram) :
    accepts x s = true := by simp [accepts, h]

/-! ### Answers -/

theorem settle_eq_next {r : Except Fault State} {t : State} : settle r = .next t ↔ r = .ok t := by
  cases r <;> simp [settle]

theorem settle_ne_refused (r : Except Fault State) (e : Refusal) : settle r ≠ .refused e := by
  cases r <;> simp [settle]

/-! ### Fetch -/

theorem fetch_eq_ok {s t : State} :
    fetch s = .ok t ↔ readable s.pc s = true ∧
      t = { s with ir := s.mem.word s.pc, mar := s.pc, pc := s.pc + 1#16 } := by
  unfold fetch memRead
  by_cases h : readable s.pc s = true <;> simp [h, eq_comm]

theorem fetch_of_readable {s : State} (h : readable s.pc s = true) :
    fetch s = .ok { s with ir := s.mem.word s.pc, mar := s.pc, pc := s.pc + 1#16 } :=
  fetch_eq_ok.2 ⟨h, rfl⟩

/-! ### The boundary -/

/-- The interrupt entry, or nothing. -/
theorem interruptEntry_eq_ok {s t : State} :
    interruptEntry s = .ok t ↔
      (s.irqPending = true ∧ accepts isrretSlot s = true ∧ t = enterIsr s) ∨
      (s.irqPending = false ∧ t = s) := by
  unfold interruptEntry
  by_cases hp : s.irqPending = true <;> by_cases ha : accepts isrretSlot s = true <;>
    simp [hp, ha, eq_comm]

/-- Everything a boundary can do: enter the routine, or only notice. -/
theorem boundary_eq_next {b : Bool} {s t : State} :
    boundary b s = .next t ↔
      ((noticeRequest b s).irqPending = true ∧ accepts isrretSlot s = true ∧
        t = enterIsr (noticeRequest b s)) ∨
      ((noticeRequest b s).irqPending = false ∧ t = noticeRequest b s) := by
  unfold boundary
  rw [settle_eq_next, interruptEntry_eq_ok,
    accepts_congr (s := s) (t := noticeRequest b s) isrretSlot rfl]

theorem boundary_ne_refused (b : Bool) (s : State) (e : Refusal) : boundary b s ≠ .refused e :=
  settle_ne_refused _ e

/-! ### One step -/

/-- Everything a step that goes on did: a fetch, the meaning of the decoded instruction, a boundary. -/
theorem step_eq_next {s t : State} :
    step s = .next t ↔
      ∃ i u, readable s.pc s = true ∧ decode (s.mem.word s.pc) = .ok i ∧
        exec i { s with ir := s.mem.word s.pc, mar := s.pc, pc := s.pc + 1#16 } = .next u ∧
        boundary s.i u = .next t := by
  unfold step
  by_cases h : readable s.pc s = true
  · rw [fetch_of_readable h]
    simp only [runWord, h, true_and]
    cases decode (s.mem.word s.pc) with
    | error e => simp
    | ok i =>
      simp only [Except.ok.injEq, exists_and_left, exists_eq_left']
      cases exec i { s with ir := s.mem.word s.pc, mar := s.pc, pc := s.pc + 1#16 } <;> simp
  · simp [fetch, memRead, h]

end Sys2Proof.Machine
end

