-- ==== Sys2Proof/Laws/Operands.lean ====
section
/-! SUPPORT. For each operation of the addressing modes, and for the whole OP1 and OP2 instructions,
once, everything it can do. -/

namespace Sys2Proof.Machine

/-- The effective-address procedure in closed form (40_addressing_modes.md R119). -/
theorem effAddr_eq_ok {ind rel : Bool} {f : Field} {s t : State} {ea : EA} :
    effAddr ind rel f s = .ok (ea, t) ↔
      (ind = true → readable (opnd rel f s) s = true) ∧
      ea = { addr := effective ind rel f s, indirect := ind,
             wb := if autoindexed ind rel f s then
                some (opnd rel f s, effective ind rel f s + 1#16) else none } ∧
      t = { s with
            mar := if ind then opnd rel f s else s.mar
            dr := if ind then effective ind rel f s else s.dr } := by
  cases ind with
  | false => simp [effAddr, effective, autoindexed, @eq_comm _ ea, @eq_comm _ t]
  | true =>
    by_cases h : readable (opnd rel f s) s = true
    · simp [effAddr, effective, autoindexed, memRead, h, @eq_comm _ ea, @eq_comm _ t]
    · simp [effAddr, memRead, h]

/-- The write-back (40_addressing_modes.md R117): nothing, or the pointer's new value. -/
theorem finish_eq_ok {ea : EA} {s t : State} :
    finish ea s = .ok t ↔
      (ea.wb = none ∧ t = s) ∨
      (∃ p v, ea.wb = some (p, v) ∧ accepts p s = true ∧
        t = { s with mar := p, mem := pokeMem s.cfg p v s.mem }) := by
  unfold finish
  cases h : ea.wb with
  | none => simp [@eq_comm _ t]
  | some pv =>
    obtain ⟨p, v⟩ := pv
    simp [memWrite_eq_ok, accepts_congr (s := s) (t := { s with mar := p }) p rfl]

/-- Everything a memory-reference instruction that goes on did (40_addressing_modes.md R119). -/
theorem memoryReference_eq_next {ind rel : Bool} {f : Field}
    {act : EA → State → Except Fault State} {s t : State} :
    memoryReference ind rel f act s = .next t ↔
      ∃ ea s₁ s₂, effAddr ind rel f s = .ok (ea, s₁) ∧ act ea s₁ = .ok s₂ ∧
        finish ea s₂ = .ok t := by
  unfold memoryReference
  rw [settle_eq_next]
  cases h : effAddr ind rel f s with
  | error r => simp
  | ok p =>
    obtain ⟨ea, s₁⟩ := p
    cases h' : act ea s₁ with
    | error r => simp [h']
    | ok s₂ => simp [h']

/-- A memory-reference instruction never refuses. -/
theorem memoryReference_ne_refused (ind rel : Bool) (f : Field)
    (act : EA → State → Except Fault State) (s : State) (e : Refusal) :
    memoryReference ind rel f act s ≠ .refused e := settle_ne_refused _ e

theorem readDatum_eq_ok {ea : EA} {s t : State} {m : Word} :
    readDatum ea s = .ok (m, t) ↔
      readable ea.addr s = true ∧ m = s.mem.word ea.addr ∧ t = putOut ea s := by
  unfold readDatum
  by_cases h : readable ea.addr s = true
  · simp [memRead, h, @eq_comm _ m, @eq_comm _ t]
  · simp [memRead, h]

theorem writeDatum_eq_ok {ea : EA} {v : Word} {s t : State} :
    writeDatum ea v s = .ok t ↔
      accepts ea.addr s = true ∧
      t = { putOut ea s with mem := pokeMem s.cfg ea.addr v s.mem } := by
  unfold writeDatum
  rw [memWrite_eq_ok, accepts_congr (s := s) (t := putOut ea s) ea.addr rfl]
  simp

theorem saveReturn_eq_ok {slot : Word} {s t : State} :
    saveReturn slot s = .ok t ↔
      accepts slot s = true ∧ t = { s with mar := slot, mem := pokeMem s.cfg slot s.pc s.mem } := by
  unfold saveReturn
  rw [memWrite_eq_ok, accepts_congr (s := s) (t := { s with mar := slot }) slot rfl]

/-! ### OP1 and OP2 -/

/-- The bits of (L,A) (00_scope.md R10): L on top of A. -/
theorem getLsbD_link (l : Bool) (a : Word) (i : Nat) :
    (link l a).getLsbD i = if i < 16 then a.getLsbD i else decide (i = 16) && l := by
  have h := BitVec.getLsbD_append (x := BitVec.ofBool l) (y := a) (i := i)
  refine h.trans ?_
  split
  · rfl
  · by_cases hi : i = 16
    · subst hi; simp
    · have : i - 16 ≠ 0 := by omega
      simp [hi, BitVec.getLsbD_ofBool, this]

@[simp] theorem linkL_link (l : Bool) (a : Word) : linkL (link l a) = l := by
  rw [linkL, getLsbD_link]; simp

@[simp] theorem linkA_link (l : Bool) (a : Word) : linkA (link l a) = a := by
  apply BitVec.eq_of_getLsbD_eq
  intro i hi
  rw [linkA, BitVec.getLsbD_setWidth, getLsbD_link]
  simp [hi]

/-- No roll leaves (L,A) as it is. -/
@[simp] theorem minorRoll_none (s : State) : minorRoll .none s = s := by
  simp [minorRoll, setLink, roll17]

/-- Everything but A and L is as it was. -/
def OnlyAL (s t : State) : Prop := t = { s with a := t.a, l := t.l }

theorem onlyAL_selected {op : State → State} (b : Bool) (s : State) (h : ∀ t, OnlyAL t (op t)) :
    OnlyAL s (selected b op s) := by
  cases b
  · rfl
  · exact h s

theorem onlyAL_trans {s t u : State} (h₁ : OnlyAL s t) (h₂ : OnlyAL t u) : OnlyAL s u := by
  unfold OnlyAL at *
  rw [h₁] at h₂
  exact h₂

/-- What OP1 leaves alone: everything but A and L. -/
theorem op1State_frame (m : Op1Bits) (s : State) :
    op1State m s = { s with a := (op1State m s).a, l := (op1State m s).l } := by
  have h : OnlyAL s (op1State m s) := by
    unfold op1State
    refine onlyAL_trans (onlyAL_trans (onlyAL_trans (onlyAL_trans (onlyAL_trans
      (onlyAL_selected (op := minorCla) m.cla s ?_) (onlyAL_selected (op := minorCll) m.cll _ ?_))
      (onlyAL_selected (op := minorNot) m.not _ ?_)) (onlyAL_selected (op := minorInc) m.inc _ ?_))
      (onlyAL_selected (op := minorCpl) m.cpl _ ?_)) ?_
    all_goals first | exact fun _ => rfl | rfl
  exact h

/-- What OP2 leaves alone: everything but A, PC and I. -/
theorem op2State_frame (m : Op2Bits) (s : State) :
    op2State m s =
      { s with a := (op2State m s).a, pc := (op2State m s).pc, i := (op2State m s).i } := by
  unfold op2State
  cases skips m s.a s.l <;> cases m.cla2 <;> cases m.cli <;> cases m.sti <;> rfl

theorem runOp1_eq_next {ign : BitVec 2} {m : Op1Bits} {s t : State} :
    runOp1 ign m s = .next t ↔ irBitsRefused ign s = false ∧ t = op1State m s := by
  unfold runOp1
  cases irBitsRefused ign s <;> simp [eq_comm]

theorem runOp2_eq_next {ign : BitVec 2} {m : Op2Bits} {s t : State} :
    runOp2 ign m s = .next t ↔ irBitsRefused ign s = false ∧ t = op2State m s := by
  unfold runOp2
  cases irBitsRefused ign s <;> simp [eq_comm]

theorem runOp1_ne_fault (ign : BitVec 2) (m : Op1Bits) (s : State) (r : Fault) :
    runOp1 ign m s ≠ .fault r := by
  unfold runOp1
  split <;> simp

theorem runOp2_ne_fault (ign : BitVec 2) (m : Op2Bits) (s : State) (r : Fault) :
    runOp2 ign m s ≠ .fault r := by
  unfold runOp2
  split <;> simp

end Sys2Proof.Machine
end

