-- ==== Sys2Proof/Tests/Slice0.lean ====
section
/-! SUPPORT. Tests on fixed values, with expected results from spec/95_test_vectors.md unless a comment
says otherwise, and for every statement with hypotheses a witness that meets them. -/

namespace Sys2Proof.Tests

open Sys2Proof.Machine Sys2Proof.Safety

/-! ### Helpers -/

/-- Memory holding the listed words. -/
def words : List (Word × Word) → Memory
  | [] => []
  | (x, v) :: rest => (words rest).write x v

/-- A state about to fetch at `pc`, with A = `a`, L = `l`, the listed memory, no request present at the
next boundary and everything else zero. -/
def start (pc : Word) (a : Word) (l : Bool) (m : List (Word × Word)) : State where
  a := a
  l := l
  pc := pc
  i := false
  ir := 0#16
  mar := 0#16
  dr := 0#16
  irqPending := false
  mem := words m
  ioTrace := []
  ioAnswers := [0x0042#16]
  irqRequests := [false]
  tick := 0
  cfg := Config.default

/-- The same with I = 1. -/
def enabled (s : State) : State := { s with i := true }

/-- The same with a request present at the next boundary. -/
def requested (s : State) : State := { s with irqRequests := [true] }

/-- The same with one region of `MEM_MAP`, and writes to ROM refused. -/
def mapped (r : Region) (s : State) : State :=
  { s with cfg := { s.cfg with memMap := [r], romWrite := .refuse } }

/-- The same with `OP_IR_BITS` = refuse. -/
def strict (s : State) : State := { s with cfg := { s.cfg with opIrBits := .refuse } }

/-- The same with `PAGE_SOURCE` = incremented_pc. -/
def byPc (s : State) : State := { s with cfg := { s.cfg with pageSource := .incrementedPc } }

/-- What `see` shows of the state after one step, if the step goes on. -/
def after {α : Type} (see : State → α) (s : State) : Option α :=
  match step s with
  | .next t => some (see t)
  | .fault _ => none
  | .refused _ => none

/-- The refusal a step ends in, if it ends in one. -/
def refusedBy (s : State) : Option Refusal :=
  match step s with
  | .next _ => none
  | .fault _ => none
  | .refused r => some r

/-- The answer is a next state. -/
def goesOn : Result → Bool
  | .next _ => true
  | .fault _ => false
  | .refused _ => false

theorem next_of_goesOn {r : Result} (h : goesOn r = true) : ∃ t, r = .next t := by
  cases r with
  | next t => exact ⟨t, rfl⟩
  | fault _ => cases h
  | refused _ => cases h

/-- One step at 0400 of a word that needs no memory: A and L after it. -/
def al (w : Word) (a : Word) (l : Bool) : Option (Word × Bool) :=
  after (fun t => (t.a, t.l)) (start 0x0400#16 a l [(0x0400#16, w)])

/-- One step at 0100 of a word that needs no memory: PC after it. -/
def pcAfter (w : Word) (a : Word) (l : Bool) : Option Word :=
  after (·.pc) (start 0x0100#16 a l [(0x0100#16, w)])

/-! ### WellFormed: a term that each check refuses -/

theorem test_wellFormed_jmp_of_ret : (Instr.jmp true false 0#10).wellFormed = false := by decide

theorem test_wellFormed_jmp_of_rtt : (Instr.jmp true false 1#10).wellFormed = false := by decide

theorem test_wellFormed_op1_of_neg :
    (Instr.op1 0#2 { not := true, inc := true }).wellFormed = false := by decide

theorem test_wellFormed_op2_of_spa :
    (Instr.op2 0#2 { g2 := true, testN := true, testZ := true }).wellFormed = false := by decide

theorem test_wellFormed_lia_of_li : (Instr.lia false false 5#10).wellFormed = false := by decide

theorem test_wellFormed_ing : (Instr.ing 0#2).wellFormed = false := by decide

/-! ### Decode: every constructor's word, written as opcode, I, R and operand (30_encoding.md R81, R82,
R85, R86, and for the macros R87) -/

theorem test_decode_trap_iot :
    decode (0b0000#4 ++ 1#1 ++ 0#1 ++ 0b0001000000#10) = .ok (.trap true false 0x040#10) ∧
    decode (0b0001#4 ++ 0#1 ++ 1#1 ++ 0b0000000101#10) = .ok (.iot false true 0x005#10) := by decide

theorem test_decode_load_store :
    decode (0b0010#4 ++ 1#1 ++ 1#1 ++ 0b0010011010#10) = .ok (.load true true 0x09A#10) ∧
    decode (0b0011#4 ++ 0#1 ++ 1#1 ++ 0b0000010000#10) = .ok (.store false true 0x010#10) := by decide

theorem test_decode_in_out :
    decode (0b0100#4 ++ 0#1 ++ 0#1 ++ 0b0000000101#10) = .ok (.inp false false 0x005#10) ∧
    decode (0b0101#4 ++ 1#1 ++ 0#1 ++ 0b0010000001#10) = .ok (.out true false 0x081#10) := by decide

theorem test_decode_jmp_jsr :
    decode (0b0110#4 ++ 1#1 ++ 0#1 ++ 0b0000000010#10) = .ok (.jmp true false 0x002#10) ∧
    decode (0b0111#4 ++ 0#1 ++ 1#1 ++ 0b0000100000#10) = .ok (.jsr false true 0x020#10) := by decide

theorem test_decode_add_and_or_xor :
    decode (0b1000#4 ++ 0#1 ++ 0#1 ++ 0b0000010000#10) = .ok (.add false false 0x010#10) ∧
    decode (0b1001#4 ++ 0#1 ++ 1#1 ++ 0b1111111111#10) = .ok (.and false true 0x3FF#10) ∧
    decode (0b1010#4 ++ 1#1 ++ 0#1 ++ 0b0010000000#10) = .ok (.or true false 0x080#10) ∧
    decode (0b1011#4 ++ 1#1 ++ 1#1 ++ 0b0000000001#10) = .ok (.xor true true 0x001#10) := by decide

theorem test_decode_op1_minors :
    decode (0b1100#4 ++ 0b00#2 ++ 0b0000000000#10) = .ok (.nop 0#2) ∧
    decode (0b1100#4 ++ 0b00#2 ++ 0b1000000000#10) = .ok (.cla 0#2) ∧
    decode (0b1100#4 ++ 0b00#2 ++ 0b0100000000#10) = .ok (.cll 0#2) ∧
    decode (0b1100#4 ++ 0b00#2 ++ 0b0010000000#10) = .ok (.not 0#2) ∧
    decode (0b1100#4 ++ 0b00#2 ++ 0b0001000000#10) = .ok (.inc 0#2) ∧
    decode (0b1100#4 ++ 0b00#2 ++ 0b0000100000#10) = .ok (.cpl 0#2) ∧
    decode (0b1100#4 ++ 0b00#2 ++ 0b0000000010#10) = .ok (.rbl 0#2) ∧
    decode (0b1100#4 ++ 0b00#2 ++ 0b0000000001#10) = .ok (.rbr 0#2) ∧
    decode (0b1100#4 ++ 0b00#2 ++ 0b0000000110#10) = .ok (.rnl 0#2) ∧
    decode (0b1100#4 ++ 0b00#2 ++ 0b0000000101#10) = .ok (.rnr 0#2) := by decide

theorem test_decode_op1_combination :
    decode (0b1100#4 ++ 0b01#2 ++ 0b1100000000#10) =
      .ok (.op1 0b01#2 { cla := true, cll := true }) := by decide

theorem test_decode_op2_minors :
    decode (0b1101#4 ++ 0b00#2 ++ 0b0000000000#10) = .ok (.nop2 0#2) ∧
    decode (0b1101#4 ++ 0b00#2 ++ 0b0000000100#10) = .ok (.sna 0#2) ∧
    decode (0b1101#4 ++ 0b00#2 ++ 0b0000000010#10) = .ok (.sza 0#2) ∧
    decode (0b1101#4 ++ 0b00#2 ++ 0b0000000001#10) = .ok (.ssl 0#2) ∧
    decode (0b1101#4 ++ 0b00#2 ++ 0b0000001000#10) = .ok (.skip 0#2) ∧
    decode (0b1101#4 ++ 0b00#2 ++ 0b0000001100#10) = .ok (.snn 0#2) ∧
    decode (0b1101#4 ++ 0b00#2 ++ 0b0000001010#10) = .ok (.snz 0#2) ∧
    decode (0b1101#4 ++ 0b00#2 ++ 0b0000001001#10) = .ok (.scl 0#2) ∧
    decode (0b1101#4 ++ 0b00#2 ++ 0b0001000000#10) = .ok (.cla2 0#2) ∧
    decode (0b1101#4 ++ 0b00#2 ++ 0b0000100000#10) = .ok (.cli 0#2) ∧
    decode (0b1101#4 ++ 0b00#2 ++ 0b0000010000#10) = .ok (.sti 0#2) := by decide

theorem test_decode_op2_combination :
    decode (0b1101#4 ++ 0b10#2 ++ 0b0001001010#10) =
      .ok (.op2 0b10#2 { cla2 := true, g2 := true, testZ := true }) := by decide

theorem test_decode_lia_li :
    decode (0b1111#4 ++ 1#1 ++ 1#1 ++ 0b0001000010#10) = .ok (.lia true true 0x042#10) ∧
    decode (0b1111#4 ++ 0#1 ++ 0#1 ++ 0b1101010000#10) = .ok (.li false 0x350#10) := by decide

theorem test_decode_reserved_e :
    decode (0b1110#4 ++ 0b000100100011#12) = .ok (.reservedE 0x123#12) := by decide

theorem test_decode_macros :
    decode (0b0110#4 ++ 1#1 ++ 0#1 ++ 0b0000000000#10) = .ok .ret ∧
    decode (0b0110#4 ++ 1#1 ++ 0#1 ++ 0b0000000001#10) = .ok .rtt ∧
    decode (0b1100#4 ++ 0b00#2 ++ 0b0011000000#10) = .ok (.neg 0#2) ∧
    decode (0b1100#4 ++ 0b00#2 ++ 0b0100000010#10) = .ok (.sbl 0#2) ∧
    decode (0b1100#4 ++ 0b00#2 ++ 0b0100000001#10) = .ok (.sbr 0#2) ∧
    decode (0b1100#4 ++ 0b00#2 ++ 0b0100000110#10) = .ok (.snl 0#2) ∧
    decode (0b1100#4 ++ 0b00#2 ++ 0b0100000101#10) = .ok (.snr 0#2) ∧
    decode (0b1101#4 ++ 0b00#2 ++ 0b0000000110#10) = .ok (.snp 0#2) ∧
    decode (0b1101#4 ++ 0b00#2 ++ 0b0000001110#10) = .ok (.spa 0#2) := by decide

/-- ING is a second name of NOT's word C080 (48_assembler_and_macros.md R222, log 21). -/
theorem test_encode_ing : encode (.ing 0#2) = 0xC080#16 ∧ decode 0xC080#16 = .ok (.not 0#2) := by decide

/-- The words of 95_test_vectors.md 2.9. -/
theorem test_decode_reserved :
    [0xC008#16, 0xC010#16, 0xC018#16, 0xC208#16, 0xC003#16, 0xC004#16, 0xC007#16, 0xC107#16].map
        decode = List.replicate 8 (.error .reservedOp1) ∧
    [0xD080#16, 0xD100#16, 0xD200#16, 0xD384#16].map decode =
      List.replicate 4 (.error .reservedOp2) := by decide

/-! ### One step each (95_test_vectors.md part 2) -/

theorem test_load_indirect_page_relative :
    after (fun t => (t.a, t.pc, t.mem.word 0x109A#16)) (start 0x1234#16 0#16 false
      [(0x1234#16, 0x2C9A#16), (0x109A#16, 0x4000#16), (0x4000#16, 0x5A5A#16)]) =
    some (0x5A5A#16, 0x1235#16, 0x4000#16) := by decide

theorem test_load_autoindex_wraps :
    after (fun t => (t.a, t.l, t.mem.word 0x0080#16)) (start 0x0400#16 0#16 true
      [(0x0400#16, 0x2880#16), (0x0080#16, 0xFFFF#16), (0xFFFF#16, 0x1234#16)]) =
    some (0x1234#16, true, 0x0000#16) := by decide

theorem test_store_page_relative :
    after (fun t => (t.mem.word 0x8410#16, t.pc, t.a)) (start 0x8514#16 0x1111#16 false
      [(0x8514#16, 0x3410#16)]) = some (0x1111#16, 0x8515#16, 0x1111#16) := by decide

theorem test_store_autoindex_through_itself :
    after (fun t => t.mem.word 0x009A#16) (start 0x0400#16 0xAAAA#16 false
      [(0x0400#16, 0x389A#16), (0x009A#16, 0x009A#16)]) = some 0x009B#16 := by decide

theorem test_in_page_relative :
    after (fun t => (t.a, t.ioTrace)) (start 0x8514#16 0#16 false [(0x8514#16, 0x4405#16)]) =
    some (0x0042#16, [.read 0x8405#16 0x0042#16]) := by decide

theorem test_out_autoindex :
    after (fun t => (t.a, t.ioTrace, t.mem.word 0x0081#16)) (start 0x0400#16 1#16 false
      [(0x0400#16, 0x5881#16), (0x0081#16, 0xABCD#16)]) =
    some (0x0001#16, [.write 0xABCD#16 0x0001#16], 0xABCE#16) := by decide

theorem test_iot_writes_then_reads :
    after (fun t => (t.a, t.ioTrace)) (start 0x0400#16 7#16 false [(0x0400#16, 0x1005#16)]) =
    some (0x0042#16, [.write 0x0005#16 0x0007#16, .read 0x0005#16 0x0042#16]) := by decide

theorem test_add_toggles_l :
    after (fun t => (t.a, t.l)) (start 0x0400#16 0xFFFF#16 true
      [(0x0400#16, 0x8010#16), (0x0010#16, 0x0001#16)]) = some (0x0000#16, false) := by decide

theorem test_add_signed_overflow_keeps_l :
    after (fun t => (t.a, t.l)) (start 0x0400#16 0x7FFF#16 false
      [(0x0400#16, 0x8010#16), (0x0010#16, 0x0001#16)]) = some (0x8000#16, false) := by decide

theorem test_and_or_xor :
    [0x9010#16, 0xA010#16, 0xB010#16].map (fun w => after (fun t => (t.a, t.l))
      (start 0x0400#16 0xF0F0#16 true [(0x0400#16, w), (0x0010#16, 0x3C3C#16)])) =
    [some (0x3030#16, true), some (0xFCFC#16, true), some (0xCCCC#16, true)] := by decide

theorem test_jmp_indirect :
    after (·.pc) (start 0x2130#16 0#16 false [(0x2130#16, 0x6F00#16), (0x2300#16, 0x9ABC#16)]) =
    some 0x9ABC#16 := by decide

theorem test_jsr_saves_pc :
    after (fun t => (t.pc, t.mem.word 0x0000#16)) (start 0x2130#16 0#16 false
      [(0x2130#16, 0x7420#16)]) = some (0x2020#16, 0x2131#16) := by decide

theorem test_jsr_reads_its_pointer_first :
    after (fun t => (t.pc, t.mem.word 0x0000#16)) (start 0x2130#16 0#16 false
      [(0x2130#16, 0x7800#16), (0x0000#16, 0x4321#16)]) = some (0x4321#16, 0x2131#16) := by
  decide

theorem test_trap_saves_pc :
    after (fun t => (t.pc, t.mem.word 0x0001#16, t.mem.word 0x0000#16)) (start 0x2130#16 0#16 false
      [(0x2130#16, 0x0840#16), (0x0040#16, 0x9000#16)]) =
    some (0x9000#16, 0x2131#16, 0x0000#16) := by decide

theorem test_ret_rtt :
    after (·.pc) (start 0x2130#16 0#16 false [(0x2130#16, 0x6800#16), (0x0000#16, 0x4321#16)]) =
      some 0x4321#16 ∧
    after (·.pc) (start 0x2130#16 0#16 false [(0x2130#16, 0x6801#16), (0x0001#16, 0x2131#16)]) =
      some 0x2131#16 := by decide

theorem test_nop_cla_cll :
    al 0xC000#16 0x1234#16 true = some (0x1234#16, true) ∧
    al 0xC200#16 0xBEEF#16 true = some (0x0000#16, true) ∧
    al 0xC100#16 0xBEEF#16 true = some (0xBEEF#16, false) := by decide

theorem test_not_inc_cpl :
    al 0xC080#16 0xFFFF#16 false = some (0x0000#16, false) ∧
    al 0xC040#16 0xFFFF#16 true = some (0x0000#16, false) ∧
    al 0xC020#16 0x1234#16 true = some (0x1234#16, false) := by decide

theorem test_rbl_rbr :
    al 0xC002#16 0x4000#16 true = some (0x8001#16, false) ∧
    al 0xC001#16 0x8001#16 false = some (0x4000#16, true) := by decide

theorem test_rnl_rnr :
    al 0xC006#16 0x1234#16 false = some (0x2340#16, true) ∧
    al 0xC005#16 0x1234#16 false = some (0x8123#16, false) ∧
    al 0xC006#16 0x0000#16 true = some (0x0008#16, false) ∧
    al 0xC005#16 0x0000#16 true = some (0x1000#16, false) := by decide

theorem test_op1_order :
    al 0xC042#16 0xFFFF#16 false = some (0x0001#16, false) ∧
    al 0xC2C0#16 0x1234#16 false = some (0x0000#16, true) := by decide

theorem test_neg_ing :
    al 0xC0C0#16 0x0003#16 false = some (0xFFFD#16, false) ∧
    al 0xC0C0#16 0x0000#16 false = some (0x0000#16, true) ∧
    al (encode (.ing 0#2)) 0x0005#16 false = some (0xFFFA#16, false) := by decide

theorem test_sbl_sbr_snl_snr :
    al 0xC102#16 0xC001#16 true = some (0x8002#16, true) ∧
    al 0xC101#16 0xC001#16 true = some (0x6000#16, true) ∧
    al 0xC106#16 0xF234#16 true = some (0x2347#16, true) ∧
    al 0xC105#16 0x123F#16 true = some (0xE123#16, true) := by decide

/-- Two columns of the skip matrix, (8000, 0) and (0000, 1). -/
theorem test_skip_matrix :
    [0xD000#16, 0xD004#16, 0xD002#16, 0xD001#16, 0xD008#16, 0xD00C#16, 0xD00A#16, 0xD009#16,
        0xD006#16, 0xD00E#16].map (fun w => (pcAfter w 0x8000#16 false, pcAfter w 0x0000#16 true)) =
      [(some 0x0101#16, some 0x0101#16), (some 0x0102#16, some 0x0101#16),
        (some 0x0101#16, some 0x0102#16), (some 0x0101#16, some 0x0102#16),
        (some 0x0102#16, some 0x0102#16), (some 0x0101#16, some 0x0102#16),
        (some 0x0102#16, some 0x0101#16), (some 0x0102#16, some 0x0101#16),
        (some 0x0102#16, some 0x0102#16), (some 0x0101#16, some 0x0101#16)] := by decide

theorem test_skip_wraps :
    after (·.pc) (start 0xFFFF#16 0#16 false [(0xFFFF#16, 0xD008#16)]) = some 0x0001#16 := by
  decide

theorem test_cla2_cli_sti :
    after (fun t => (t.a, t.l)) (start 0x0100#16 0x1234#16 true [(0x0100#16, 0xD040#16)]) =
      some (0x0000#16, true) ∧
    after (·.i) (enabled (start 0x0100#16 0#16 false [(0x0100#16, 0xD020#16)])) = some false ∧
    after (·.i) (start 0x0100#16 0#16 false [(0x0100#16, 0xD010#16)]) = some true := by decide

theorem test_op2_tests_before_it_clears :
    after (fun t => (t.a, t.pc)) (start 0x0100#16 7#16 false [(0x0100#16, 0xD04A#16)]) =
      some (0x0000#16, 0x0102#16) ∧
    after (·.i) (enabled (start 0x0100#16 0#16 false [(0x0100#16, 0xD030#16)])) = some true := by
  decide

theorem test_lia_li :
    after (·.a) (start 0x2130#16 0#16 false [(0x2130#16, 0xFC42#16)]) = some 0x2042#16 ∧
    after (·.a) (start 0x2130#16 0#16 false [(0x2130#16, 0xF350#16)]) = some 0x0350#16 := by
  decide

theorem test_page_source :
    after (·.a) (start 0x07FF#16 0#16 false [(0x07FF#16, 0xF410#16)]) = some 0x0410#16 ∧
    after (·.a) (byPc (start 0x07FF#16 0#16 false [(0x07FF#16, 0xF410#16)])) = some 0x0810#16 := by
  decide

theorem test_refused :
    refusedBy (start 0x0400#16 0#16 false [(0x0400#16, 0xE123#16)]) = some .unassignedOpcode ∧
    refusedBy (start 0x0400#16 0#16 false [(0x0400#16, 0xC107#16)]) = some .reservedOp1 ∧
    refusedBy (start 0x0400#16 0#16 false [(0x0400#16, 0xD384#16)]) = some .reservedOp2 ∧
    refusedBy (strict (start 0x0400#16 0#16 false [(0x0400#16, 0xCD02#16)])) = some .opIrBits ∧
    al 0xCD02#16 0xC001#16 true = some (0x8002#16, true) := by decide

/-- The rows "after JSR" and "CLI" of the interrupt table. -/
theorem test_interrupt_entry :
    after (fun t => (t.pc, t.i, t.mem.word 0x0000#16, t.mem.word 0x0002#16))
        (requested (enabled (start 0x0100#16 0#16 false [(0x0100#16, 0x7420#16)]))) =
      some (0xFFF8#16, false, 0x0101#16, 0x0020#16) ∧
    after (fun t => (t.pc, t.i, t.mem.word 0x0002#16))
        (requested (enabled (start 0x0100#16 0#16 false [(0x0100#16, 0xD020#16)]))) =
      some (0xFFF8#16, false, 0x0101#16) := by decide

/-- The rows "masked", "no request" and "STI". -/
theorem test_interrupt_window :
    after (fun t => (t.pc, t.i)) (requested (start 0x0100#16 0#16 false [(0x0100#16, 0xC000#16)])) =
      some (0x0101#16, false) ∧
    after (fun t => (t.pc, t.i)) (enabled (start 0x0100#16 0#16 false [(0x0100#16, 0xC000#16)])) =
      some (0x0101#16, true) ∧
    after (fun t => (t.pc, t.i, t.mem.word 0x0002#16))
        (requested (start 0x0100#16 0#16 false [(0x0100#16, 0xD010#16)])) =
      some (0xFFF8#16, false, 0x0101#16) := by decide

/-- Whether a self-jump run is over after one step from `s`. -/
def overAfterOne (s : State) : Option Bool := after (fun t => ended .selfJump [t, s]) s

/-- A JMP to its own address counts as one step ("the step counts include the first execution of that
self-jump", part 3); where its boundary enters the ISR the run goes on. -/
theorem test_run_ends_after_the_self_jump :
    let s := start 0x0402#16 0#16 false [(0x0402#16, 0x6402#16)]
    ended .selfJump [s] = false ∧ overAfterOne s = some true ∧
      overAfterOne (requested (enabled s)) = some false := by decide

/-- A jump elsewhere, step 17 of program P1, does not end a run. -/
theorem test_run_goes_on_after_another_jump :
    overAfterOne (start 0x0412#16 0#16 false [(0x0412#16, 0x640A#16)]) = some false := by decide

/-- Lines of Figure 4 and their words (48_assembler_and_macros.md R232). -/
theorem test_assemble :
    assemble [.symbol .load, .number 0x0000#16] = 0x2400#16 ∧
    assemble [.number 0x0342#16, .symbol .iFlag, .symbol .load] = 0x2F42#16 ∧
    assemble [.symbol .load, .symbol .iFlag, .symbol .rFlag, .number 0x0080#16] = 0x2880#16 ∧
    assemble [.symbol .cll, .symbol .rbl] = 0xC502#16 := by
  decide

/-! ### Witnesses: for each statement with hypotheses, values that meet them

`here` is a state in which an instruction has been fetched at 0400; pointers stand at 007F, 0080, 00FF and
0100. -/

/-- An instruction at 0400 has been fetched; the pointers lie on and beside the autoindex bounds. -/
def here : State :=
  start 0x0401#16 0x1234#16 true [(0x007F#16, 0x4000#16), (0x0080#16, 0x4000#16),
    (0x00FF#16, 0xFFFF#16), (0x0100#16, 0x4000#16)]

/-- Nothing stands at 0000 to 00FF. -/
def hole : State := mapped ⟨0x0000#16, 0x00FF#16, .absent⟩ here

/-- 0000 to 00FF is ROM, and writes to it are refused. -/
def lowRom : State := mapped ⟨0x0000#16, 0x00FF#16, .rom⟩ here

theorem witness_DecodeOfEncodeIsTheInstruction :
    (Instr.load true true 0x3FF#10).wellFormed = true ∧ (Instr.jmp true false 2#10).wellFormed = true ∧
      (Instr.op1 3#2 { cla := true, cll := true }).wellFormed = true := by decide

theorem witness_EncodeOfDecodeIsTheWord :
    decode 0x6800#16 = .ok .ret ∧ decode 0xFFFF#16 = .ok (.lia true true 0x3FF#10) := by decide

theorem witness_ExactlyTheReservedWordsAreRefused :
    opcodeOf 0xEFFF#16 = 0xE#4 ∧ decode 0xC007#16 = .error .reservedOp1 ∧
      decode 0xD080#16 = .error .reservedOp2 := by decide

theorem witness_IndirectionBitsOfOp1AndOp2 :
    (opcodeOf 0xCC02#16 = 0xC#4 ∧ here.cfg.opIrBits = .ignore) ∧
      (opcodeOf 0xD408#16 = 0xD#4 ∧ (strict here).cfg.opIrBits = .refuse ∧
        ignoredOf 0xD408#16 ≠ 0#2 ∧ decode 0xD408#16 = .ok (.skip 1#2)) := by decide

theorem witness_LiaIgnoresTheIndirectionBit : opcodeOf 0xFC42#16 = 0xF#4 := by decide

theorem witness_OperandAssembly :
    here.cfg.pageSource = .instructionAddress ∧ (byPc here).cfg.pageSource = .incrementedPc := by decide

theorem witness_EffectiveAddressProcedure :
    readable (opnd false 0x080#10 here) here = true ∧ readable (opnd false 0x0FF#10 here) here = true ∧
      readable (opnd false 0x0FF#10 hole) hole = false := by decide

/-- The hypotheses of LoadResult, AddResult and LogicResults: direct, indirect just below and just above
the autoindex words, and both of their bounds. -/
theorem witness_LoadResult :
    (addressable false true 0x3FF#10 here ∧ readable (effective false true 0x3FF#10 here) here = true) ∧
    ∀ f ∈ [0x07F#10, 0x080#10, 0x0FF#10, 0x100#10],
      addressable true false f here ∧ readable (effective true false f here) here = true := by decide

/-- The same values meet the hypotheses of AddResult. -/
theorem witness_AddResult :
    addressable true false 0x080#10 here ∧ autoindexed true false 0x080#10 here = true ∧
      readable (effective true false 0x080#10 here) here = true := by decide

/-- The same values meet the hypotheses of LogicResults. -/
theorem witness_LogicResults :
    addressable true false 0x0FF#10 here ∧ autoindexed true false 0x0FF#10 here = true ∧
      readable (effective true false 0x0FF#10 here) here = true := by decide

theorem witness_StoreResult :
    (addressable false false 0x010#10 here ∧ accepts (effective false false 0x010#10 here) here = true) ∧
    ∀ f ∈ [0x07F#10, 0x080#10, 0x0FF#10, 0x100#10],
      addressable true false f here ∧ accepts (effective true false f here) here = true := by decide

/-- The hypotheses of InResult and IotResult, with a settled answer and without one. -/
theorem witness_InResult :
    addressable true false 0x080#10 here ∧ here.ioAnswers = [0x0042#16] ∧
      ({ here with ioAnswers := [] } : State).ioAnswers = [] := by decide

theorem witness_IotResult :
    addressable false true 0x005#10 here ∧ here.ioAnswers = 0x0042#16 :: [] := by decide

theorem witness_OutResult :
    addressable false true 0x005#10 here ∧ addressable true false 0x0FF#10 here := by decide

theorem witness_JmpResult :
    addressable false true 0x020#10 here ∧ addressable true false 0x080#10 here := by decide

theorem witness_JsrAndTrapResults :
    addressable true false 0x080#10 here ∧ accepts 0x0000#16 here = true ∧
      accepts 0x0001#16 here = true := by decide

theorem witness_RetAndRttResults :
    readable 0x0000#16 here = true ∧ readable 0x0001#16 here = true := by decide

theorem witness_ReturnsResumeBehindTheCall :
    kindAt here.cfg.memMap 0x0000#16 = .ram ∧ kindAt here.cfg.memMap 0x0001#16 = .ram ∧
      (∃ t, exec (.jsr true false 0x080#10) here = .next t) ∧
      ∃ t, exec (.trap false true 0x020#10) here = .next t :=
  ⟨by decide, by decide, next_of_goesOn (by decide), next_of_goesOn (by decide)⟩

/-- A missing pointer; a missing datum or target behind a pointer and directly; a target in ROM. -/
theorem witness_AccessesWithoutMeaningStop :
    readable (opnd false 0x0FF#10 hole) hole = false ∧
    (readable (opnd false 0x010#10 hole) hole = false ∧
      kindAt hole.cfg.memMap (effective false false 0x010#10 hole) = .absent) ∧
    (readable (opnd false 0x100#10 { hole with mem := [] }) { hole with mem := [] } = true ∧
      kindAt hole.cfg.memMap (effective true false 0x100#10 { hole with mem := [] }) = .absent) ∧
    (kindAt lowRom.cfg.memMap (effective false false 0x010#10 lowRom) = .rom ∧
      lowRom.cfg.romWrite = .refuse) := by decide

/-- The slots and the pointer 0080 in ROM; a slot alone in ROM; a pointer alone in ROM; the slots absent. -/
theorem witness_SavesAndWriteBacksWithoutMeaningStop :
    (accepts 0x0000#16 lowRom = false ∧ accepts 0x0001#16 lowRom = false ∧
      readable (opnd false 0x100#10 lowRom) lowRom = true) ∧
    (autoindexed true false 0x080#10 lowRom = true ∧ readable (opnd false 0x080#10 lowRom) lowRom = true ∧
      accepts (opnd false 0x080#10 lowRom) lowRom = false ∧
      readable (effective true false 0x080#10 lowRom) lowRom = true ∧
      accepts (effective true false 0x080#10 lowRom) lowRom = true) ∧
    (let s := mapped ⟨0x0080#16, 0x0080#16, .rom⟩ here
     autoindexed true false 0x080#10 s = true ∧ accepts (opnd false 0x080#10 s) s = false ∧
       accepts 0x0000#16 s = true ∧ accepts 0x0001#16 s = true) ∧
    (readable 0x0000#16 hole = false ∧ readable 0x0001#16 hole = false) ∧
    (({ hole with irqPending := true } : State).irqPending = true ∧
      accepts 0x0002#16 { hole with irqPending := true } = false) := by decide

/-- The hypothesis of every OP1 and OP2 statement, in both of its ways. -/
theorem witness_irBitsAllowed : irBitsAllowed 3#2 here ∧ irBitsAllowed 0#2 (strict here) := by decide

theorem witness_NybbleRollResults :
    irBitsAllowed 0#2 { here with a := 0x1FFF#16 } ∧ (0x1FFF#16).toNat < 0x2000 := by decide

theorem witness_StepRunsTheDecodedInstruction :
    let s := start 0x0400#16 0#16 false [(0x0400#16, 0x2880#16)]
    readable s.pc s = true ∧ decode (s.mem.word s.pc) = .ok (.load true false 0x080#10) := by decide

theorem witness_StepStopsWithoutAnInstruction :
    readable ({ hole with pc := 0x00FF#16 } : State).pc { hole with pc := 0x00FF#16 } = false ∧
    (let s := start 0x0400#16 0#16 false [(0x0400#16, 0xD080#16)]
     readable s.pc s = true ∧ decode (s.mem.word s.pc) = .error .reservedOp2) := by decide

theorem witness_InterruptEntrySequence :
    ({ here with irqPending := true } : State).irqPending = true ∧
      accepts 0x0002#16 { here with irqPending := true } = true := by decide

/-- A step of NOP at 0400, in the four cases of the window. -/
def atNop : State := start 0x0400#16 0#16 false [(0x0400#16, 0xC000#16)]

theorem witness_InterruptWindow :
    ∀ s ∈ [atNop, enabled atNop, requested atNop, requested (enabled atNop)],
      readable s.pc s = true ∧ decode (s.mem.word s.pc) = .ok (.nop 0#2) ∧
      (match exec (.nop 0#2) (fetched s) with
        | .next u =>
          (requestPresent u = true ∧ (s.i = true ∨ u.i = true) ∧ accepts 0x0002#16 s = true) ∨
            (requestPresent u = false ∨ (s.i = false ∧ u.i = false))
        | .fault _ => False
        | .refused _ => False) ∧
      s.irqPending = false := by
  intro s hs
  simp only [List.mem_cons, List.not_mem_nil, or_false] at hs
  rcases hs with rfl | rfl | rfl | rfl
  · exact ⟨by decide, by decide, .inr (.inl rfl), rfl⟩
  · exact ⟨by decide, by decide, .inr (.inl rfl), rfl⟩
  · exact ⟨by decide, by decide, .inr (.inr ⟨rfl, rfl⟩), rfl⟩
  · exact ⟨by decide, by decide, .inl ⟨rfl, .inl rfl, rfl⟩, rfl⟩

theorem witness_ReturnFromInterruptResumes : kindAt here.cfg.memMap 0x0002#16 = .ram := by decide

theorem witness_NoStepLeavesAnInterruptPending : ∃ t, step (requested (enabled atNop)) = .next t :=
  next_of_goesOn (by decide)

theorem witness_InterruptsAreAllowedOnlyBySti :
    ∃ t, step (start 0x0400#16 0#16 false [(0x0400#16, 0xD010#16)]) = .next t ∧ t.i = true :=
  ⟨_, rfl, by decide⟩

theorem witness_OnlyTheseInstructionsWriteA :
    (∃ t, exec (.store true false 0x080#10) here = .next t) ∧
      writesA (.store true false 0x080#10) = false := ⟨next_of_goesOn (by decide), by decide⟩

theorem witness_OnlyTheseInstructionsWriteL :
    (∃ t, exec (.not 0#2) here = .next t) ∧ writesL (.not 0#2) = false := ⟨next_of_goesOn (by decide), by decide⟩

theorem witness_OnlyTheseInstructionsWriteI :
    (∃ t, exec (.jsr false true 0x020#10) here = .next t) ∧
      writesI (.jsr false true 0x020#10) = false := ⟨next_of_goesOn (by decide), by decide⟩

/-- A store through an autoindex word, and the two words it stores to. -/
theorem witness_MemoryChangesOnlyWhereStored :
    (∃ t, exec (.store true false 0x080#10) here = .next t) ∧
      storesTo (.store true false 0x080#10) here = [0x4000#16, 0x0080#16] := by
  refine ⟨next_of_goesOn (by decide), ?_⟩
  have h₁ : effective true false 0x080#10 here = 0x4000#16 := by decide
  have h₂ : writeBackTo true false 0x080#10 here = [0x0080#16] := by decide
  exact congrArg₂ List.cons h₁ h₂

theorem witness_StepChangesOnlyTheStoredWords :
    ∃ t, step (requested (enabled (start 0x0400#16 0#16 false [(0x0400#16, 0x3880#16)]))) = .next t :=
  next_of_goesOn (by decide)

theorem witness_RomAndParametersNeverChange :
    let s := mapped ⟨0x0000#16, 0x00FF#16, .rom⟩ atNop
    (∃ t, step s = .next t) ∧ kindAt s.cfg.memMap 0x00FF#16 ≠ .ram := ⟨next_of_goesOn (by decide), by decide⟩

theorem witness_StepKeepsMemoryCanonical :
    atNop.mem.wf ∧ (∃ t, step atNop = .next t) ∧ here.mem.wf := ⟨by decide, next_of_goesOn (by decide), by decide⟩

theorem witness_IoEventsAreRecordedInOrder :
    ∃ t, step (start 0x0400#16 7#16 false [(0x0400#16, 0x1005#16)]) = .next t ∧
      t.ioTrace = [.write 0x0005#16 0x0007#16, .read 0x0005#16 0x0042#16] := ⟨_, rfl, by decide⟩

theorem witness_EveryMeaningfulWordRuns :
    atNop.cfg.memMap = [] ∧ atNop.cfg.opIrBits = .ignore ∧
      decode (atNop.mem.word atNop.pc) = .ok (.nop 0#2) ∧
      opcodeOf (atNop.mem.word atNop.pc) ≠ 0xE#4 := by decide

/-- A write to RAM, and a write to a ROM word that is ignored. -/
theorem witness_ReadAfterWrite :
    accepts 0xFFFF#16 here = true ∧ kindAt here.cfg.memMap 0xFFFF#16 = .ram ∧
    here.mem.wf ∧ (0x0000#16 : Word) ≠ 0xFFFF#16 ∧
    (let s : State := { lowRom with cfg := { lowRom.cfg with romWrite := .ignore } }
     accepts 0x0080#16 s = true ∧ kindAt s.cfg.memMap 0x0080#16 = .rom) := by
  decide

/-- STORE 0001 at 0400 (95_test_vectors.md 2.2). -/
theorem witness_StoreIsSeenByTheNextFetch :
    (∃ t, exec (.store false true 0x001#10) here = .next t) ∧
      effective false true 0x001#10 here = here.pc ∧ kindAt here.cfg.memMap here.pc = .ram ∧
      ¬(autoindexed false true 0x001#10 here = true ∧ opnd true 0x001#10 here = here.pc) :=
  ⟨next_of_goesOn (by decide), by decide, by decide, by decide⟩

/-- JMP 0130 at 2130: with I = 0 and a request, with I = 1 and none, and with I = 1 and a request. -/
theorem witness_SelfJumpStays :
    let s := start 0x2130#16 0#16 false [(0x2130#16, 0x6530#16)]
    (atSelfJump (requested s) = true ∧ (requested s).irqPending = false ∧ (requested s).i = false) ∧
      (atSelfJump (enabled s) = true ∧ (enabled s).irqPending = false ∧
        requestPresent (fetched (enabled s)) = false) ∧
      (atSelfJump (requested (enabled s)) = true ∧ (requested (enabled s)).irqPending = false ∧
        (requested (enabled s)).i = true ∧ requestPresent (fetched (requested (enabled s))) = true ∧
        accepts 0x0002#16 (requested (enabled s)) = true ∧ s.pc ≠ 0xFFF8#16) := by decide

theorem witness_CycleCounts :
    (decode 0xC300#16 = .ok (.op1 0#2 { cla := true, cll := true }) ∧ opcodeOf 0xC300#16 = 0xC#4) ∧
    (decode 0xD408#16 = .ok (.skip 1#2) ∧ opcodeOf 0xD408#16 = 0xD#4) ∧
    (decode 0xEFFF#16 = .ok (.reservedE 0xFFF#12) ∧ opcodeOf 0xEFFF#16 = 0xE#4) ∧
    (decode 0xFFFF#16 = .ok (.lia true true 0x3FF#10) ∧ opcodeOf 0xFFFF#16 = 0xF#4) ∧
    (∀ bits, Instr.ret ≠ .reservedE bits) ∧ autoindexed true false 0x07F#10 here = false ∧
      autoindexed true false 0x080#10 here = true ∧ autoindexed true false 0x0FF#10 here = true ∧
      autoindexed true false 0x100#10 here = false :=
  ⟨by decide, by decide, by decide, by decide, by simp, by decide, by decide, by decide, by decide⟩

end Sys2Proof.Tests
end

/-! ## The forms of `exec`, and what a step does to memory and to the parameters -/

namespace Sys2Proof.Machine

/-! ### The forms of an instruction's meaning -/

/-- The shapes that the arms of `exec` have: one for each operation that the instructions share. -/
inductive ExecForm : (State → Result) → Prop where
  /-- ADD, AND, OR, XOR: the datum is combined into A and L, and nothing else -/
  | combine (op : Word → State → State) (hop : ∀ m s, OnlyAL s (op m s)) (ind rel : Bool) (f : Field) :
      ExecForm (combine op ind rel f)
  /-- JMP and its macros RET and RTT -/
  | jump (ind rel : Bool) (f : Field) : ExecForm (jump ind rel f)
  /-- TRAP and JSR, by their slots -/
  | call (slot : Word) (ind rel : Bool) (f : Field) : ExecForm (call slot ind rel f)
  | inp (ind rel : Bool) (f : Field) : ExecForm (execIn ind rel f)
  | out (ind rel : Bool) (f : Field) : ExecForm (execOut ind rel f)
  | iot (ind rel : Bool) (f : Field) : ExecForm (execIot ind rel f)
  | load (ind rel : Bool) (f : Field) : ExecForm (execLoad ind rel f)
  | store (ind rel : Bool) (f : Field) : ExecForm (execStore ind rel f)
  /-- OP1, its minor operations and its macros -/
  | op1 (ign : BitVec 2) (m : Op1Bits) : ExecForm (runOp1 ign m)
  /-- OP2, its minor operations and its macros -/
  | op2 (ign : BitVec 2) (m : Op2Bits) : ExecForm (runOp2 ign m)
  /-- LIA and LI -/
  | immediate (rel : Bool) (f : Field) : ExecForm fun s => .next (loadImmediate rel f s)
  /-- RESERVED_E -/
  | unassigned : ExecForm fun _ => .refused .unassignedOpcode

/-- Every arm of `exec` has one of the forms. -/
theorem exec_form (i : Instr) : ExecForm (exec i) := by
  cases i with
  | trap ind rel f => exact .call trapretSlot ind rel f
  | jsr ind rel f => exact .call subretSlot ind rel f
  | jmp ind rel f => exact .jump ind rel f
  | ret => exact .jump true false 0x000#10
  | rtt => exact .jump true false 0x001#10
  | inp ind rel f => exact .inp ind rel f
  | out ind rel f => exact .out ind rel f
  | iot ind rel f => exact .iot ind rel f
  | load ind rel f => exact .load ind rel f
  | store ind rel f => exact .store ind rel f
  | add ind rel f | and ind rel f | or ind rel f | xor ind rel f =>
    exact .combine _ (fun _ _ => by rfl) ind rel f
  | op1 ign m => exact .op1 ign m
  | nop ign | cla ign | cll ign | not ign | inc ign | cpl ign | rbl ign | rbr ign | rnl ign | rnr ign
  | neg ign | ing ign | sbl ign | sbr ign | snl ign | snr ign => exact .op1 ign _
  | op2 ign m => exact .op2 ign m
  | nop2 ign | sna ign | sza ign | ssl ign | skip ign | snn ign | snz ign | scl ign
  | cla2 ign | cli ign | sti ign | snp ign | spa ign => exact .op2 ign _
  | lia ign rel f => exact .immediate rel f
  | li ign f => exact .immediate false f
  | reservedE bits => exact .unassigned

/-! ### Memory changes by accepted writes only -/

/-- One accepted write under `MEM_MAP`. -/
def PokedOnce (cfg : Config) (m m' : Memory) : Prop := ∃ x v, m' = pokeMem cfg x v m

/-- From `s` to `t` the parameters are kept, and memory has changed by any number of writes under
`MEM_MAP` and by nothing else. -/
structure StoresOnly (s t : State) : Prop where
  cfg_eq : t.cfg = s.cfg
  pokes : Relation.ReflTransGen (PokedOnce s.cfg) s.mem t.mem

theorem StoresOnly.of_mem_eq {s t : State} (hcfg : t.cfg = s.cfg) (hmem : t.mem = s.mem) :
    StoresOnly s t := ⟨hcfg, hmem ▸ .refl⟩

theorem StoresOnly.of_poke {s t : State} {x v : Word} (hcfg : t.cfg = s.cfg)
    (hmem : t.mem = pokeMem s.cfg x v s.mem) : StoresOnly s t := ⟨hcfg, .single ⟨x, v, hmem⟩⟩

theorem StoresOnly.refl (s : State) : StoresOnly s s := .of_mem_eq rfl rfl

theorem StoresOnly.trans {s t u : State} (h₁ : StoresOnly s t) (h₂ : StoresOnly t u) :
    StoresOnly s u :=
  ⟨h₂.cfg_eq.trans h₁.cfg_eq, h₁.pokes.trans (h₁.cfg_eq ▸ h₂.pokes)⟩

theorem OnlyAL.storesOnly {s t : State} (h : OnlyAL s t) : StoresOnly s t := by
  rw [h]
  exact .of_mem_eq rfl rfl

/-! ### The shared operations -/

theorem effAddr_storesOnly {ind rel : Bool} {f : Field} {s t : State} {ea : EA}
    (h : effAddr ind rel f s = .ok (ea, t)) : StoresOnly s t := by
  obtain ⟨-, -, rfl⟩ := effAddr_eq_ok.1 h
  exact .of_mem_eq rfl rfl

theorem putOut_storesOnly (ea : EA) (s : State) : StoresOnly s (putOut ea s) := .of_mem_eq rfl rfl

theorem readDatum_storesOnly {ea : EA} {s t : State} {m : Word} (h : readDatum ea s = .ok (m, t)) :
    StoresOnly s t := by
  obtain ⟨-, -, rfl⟩ := readDatum_eq_ok.1 h
  exact putOut_storesOnly ea s

theorem writeDatum_storesOnly {ea : EA} {v : Word} {s t : State} (h : writeDatum ea v s = .ok t) :
    StoresOnly s t := by
  obtain ⟨-, rfl⟩ := writeDatum_eq_ok.1 h
  exact .of_poke rfl rfl

theorem saveReturn_storesOnly {slot : Word} {s t : State} (h : saveReturn slot s = .ok t) :
    StoresOnly s t := by
  obtain ⟨-, rfl⟩ := saveReturn_eq_ok.1 h
  exact .of_poke rfl rfl

theorem finish_storesOnly {ea : EA} {s t : State} (h : finish ea s = .ok t) : StoresOnly s t := by
  obtain ⟨-, rfl⟩ | ⟨p, v, -, -, rfl⟩ := finish_eq_ok.1 h
  · exact .refl _
  · exact .of_poke rfl rfl

/-- A memory-reference instruction only stores if its own accesses only store. -/
theorem memoryReference_storesOnly {ind rel : Bool} {f : Field}
    {act : EA → State → Except Fault State} {s t : State}
    (hact : ∀ ea s₁ s₂, act ea s₁ = .ok s₂ → StoresOnly s₁ s₂)
    (h : memoryReference ind rel f act s = .next t) : StoresOnly s t := by
  obtain ⟨ea, s₁, s₂, hea, hown, hfin⟩ := memoryReference_eq_next.1 h
  exact ((effAddr_storesOnly hea).trans (hact ea s₁ s₂ hown)).trans (finish_storesOnly hfin)

theorem op1State_storesOnly (m : Op1Bits) (s : State) : StoresOnly s (op1State m s) :=
  OnlyAL.storesOnly (op1State_frame m s)

theorem op2State_storesOnly (m : Op2Bits) (s : State) : StoresOnly s (op2State m s) := by
  rw [op2State_frame]
  exact .of_mem_eq rfl rfl

/-- Every form of meaning that goes on changes memory by writes under `MEM_MAP` only. -/
theorem ExecForm.storesOnly {run : State → Result} (hrun : ExecForm run) {s t : State}
    (h : run s = .next t) : StoresOnly s t := by
  cases hrun with
  | combine op hop ind rel f =>
    refine memoryReference_storesOnly (fun ea s₁ s₂ hown => ?_) h
    split at hown
    · cases hown
    · next m s' hread =>
      cases hown
      exact (readDatum_storesOnly hread).trans (hop m s').storesOnly
  | jump ind rel f =>
    refine memoryReference_storesOnly (fun ea s₁ s₂ hown => ?_) h
    cases hown
    exact .of_mem_eq rfl rfl
  | call slot ind rel f =>
    refine memoryReference_storesOnly (fun ea s₁ s₂ hown => ?_) h
    split at hown
    · cases hown
    · next s' hsave =>
      cases hown
      exact (saveReturn_storesOnly hsave).trans (.of_mem_eq rfl rfl)
  | inp ind rel f | out ind rel f | iot ind rel f =>
    refine memoryReference_storesOnly (fun ea s₁ s₂ hown => ?_) h
    cases hown
    exact .of_mem_eq rfl rfl
  | load ind rel f =>
    refine memoryReference_storesOnly (fun ea s₁ s₂ hown => ?_) h
    split at hown
    · cases hown
    · next m s' hread =>
      cases hown
      exact (readDatum_storesOnly hread).trans (.of_mem_eq rfl rfl)
  | store ind rel f =>
    exact memoryReference_storesOnly (fun _ _ _ hown => writeDatum_storesOnly hown) h
  | op1 ign m =>
    obtain ⟨-, rfl⟩ := runOp1_eq_next.1 h
    exact op1State_storesOnly m s
  | op2 ign m =>
    obtain ⟨-, rfl⟩ := runOp2_eq_next.1 h
    exact op2State_storesOnly m s
  | immediate rel f =>
    cases h
    exact .of_mem_eq rfl rfl
  | unassigned => cases h

theorem exec_storesOnly {i : Instr} {s t : State} (h : exec i s = .next t) : StoresOnly s t :=
  (exec_form i).storesOnly h

theorem boundary_storesOnly {b : Bool} {s t : State} (h : boundary b s = .next t) :
    StoresOnly s t := by
  obtain ⟨-, -, rfl⟩ | ⟨-, rfl⟩ := boundary_eq_next.1 h
  · exact .of_poke rfl rfl
  · exact .of_mem_eq rfl rfl

/-- A step changes memory by writes under `MEM_MAP` only, and keeps the parameters. -/
theorem step_storesOnly {s t : State} (h : step s = .next t) : StoresOnly s t := by
  obtain ⟨i, u, -, -, hexec, hbound⟩ := step_eq_next.1 h
  have hfetch : StoresOnly s { s with ir := s.mem.word s.pc, mar := s.pc, pc := s.pc + 1#16 } :=
    .of_mem_eq rfl rfl
  exact (hfetch.trans (exec_storesOnly hexec)).trans (boundary_storesOnly hbound)

/-! ### Words that are not RAM -/

theorem word_pokeMem_not_ram (cfg : Config) (x v : Word) {y : Word} (m : Memory)
    (hy : kindAt cfg.memMap y ≠ .ram) : (pokeMem cfg x v m).word y = m.word y := by
  by_cases hxy : x = y
  · subst hxy
    rw [pokeMem_of_not_ram v m hy]
  · exact word_pokeMem_other cfg v m hxy

/-- Only RAM changes, by however many writes (20_memory.md R59, decision D11). -/
theorem word_pokes_not_ram {cfg : Config} {m m' : Memory} {x : Word}
    (h : Relation.ReflTransGen (PokedOnce cfg) m m') (hx : kindAt cfg.memMap x ≠ .ram) :
    m'.word x = m.word x := by
  induction h with
  | refl => rfl
  | tail _ hpoke ih =>
    obtain ⟨y, v, rfl⟩ := hpoke
    rw [word_pokeMem_not_ram cfg y v _ hx, ih]

/-! ### A step and the instruction it decodes -/

theorem runWord_of_decode {w : Word} {i : Instr} (h : decode w = .ok i) (s : State) :
    runWord w s = exec i s := by
  rw [runWord, h]

/-- Settles O50: a step only stores under `MEM_MAP`, and such a store passes over what is not RAM. -/
theorem romAndParametersNeverChange : Obligations.RomAndParametersNeverChange := by
  intro s t h
  have hstores := step_storesOnly h
  exact ⟨hstores.cfg_eq, fun _ hx => word_pokes_not_ram hstores.pokes hx⟩

/-- Settles O37: the fetch answers the state with IR, MAR and PC set, and the word in IR is the one that
decodes to `i`. Both sides then continue alike on each of the three answers of its meaning. -/
theorem stepRunsTheDecodedInstruction : Obligations.StepRunsTheDecodedInstruction := by
  intro s i hread hdecode
  have hrun := runWord_of_decode hdecode
    { s with ir := s.mem.word s.pc, mar := s.pc, pc := s.pc + 1#16 }
  cases hexec : exec i { s with ir := s.mem.word s.pc, mar := s.pc, pc := s.pc + 1#16 } <;>
    simp [step, fetch_of_readable hread, hrun, hexec]

end Sys2Proof.Machine

/-! ## Which registers an instruction writes, the boundary, and reset -/

namespace Sys2Proof.Machine

open Sys2Proof.Safety

/-! ### What may change of A, L and I -/

/-- Which of A, L and I may change, and whether I may go from 0 to 1. -/
structure RegWrites where
  a : Bool := false
  l : Bool := false
  i : Bool := false
  setI : Bool := false

/-- What the rules allow an instruction (10_state.md R21, R22, R26). -/
def regWrites (i : Instr) : RegWrites := ⟨writesA i, writesL i, writesI i, setsI i⟩

/-- What the minor operations of an OP1 word write. -/
def op1Writes (m : Op1Bits) : RegWrites where
  a := m.cla || m.not || m.inc || decide (m.roll ≠ .none)
  l := m.cll || m.inc || m.cpl || decide (m.roll ≠ .none)

/-- What the minor operations of an OP2 word write. -/
def op2Writes (m : Op2Bits) : RegWrites where
  a := m.cla2
  i := m.cli || m.sti
  setI := m.sti

/-- From `s` to `t` no register has changed that `w` does not allow; the buffered interrupt, the
environment's requests, the counter and IR have not changed at all. -/
structure Within (w : RegWrites) (s t : State) : Prop where
  a_eq : w.a = false → t.a = s.a
  l_eq : w.l = false → t.l = s.l
  i_eq : w.i = false → t.i = s.i
  i_rises : w.setI = false → t.i = true → s.i = true
  irqPending_eq : t.irqPending = s.irqPending
  irqRequests_eq : t.irqRequests = s.irqRequests
  tick_eq : t.tick = s.tick
  ir_eq : t.ir = s.ir

namespace Within

variable {w : RegWrites} {s t u : State}

/-- The fields that `Within` does not speak of may be updated. -/
theorem update (w : RegWrites) (s : State) (pc mar dr : Word) (mem : Memory)
    (ioTrace : List IoEvent) (ioAnswers : List Word) (cfg : Config) :
    Within w s { s with
      pc := pc, mar := mar, dr := dr, mem := mem
      ioTrace := ioTrace, ioAnswers := ioAnswers, cfg := cfg } :=
  ⟨fun _ => rfl, fun _ => rfl, fun _ => rfl, fun _ => id, rfl, rfl, rfl, rfl⟩

theorem refl (w : RegWrites) (s : State) : Within w s s := update ..

theorem trans (h₁ : Within w s t) (h₂ : Within w t u) : Within w s u where
  a_eq hw := (h₂.a_eq hw).trans (h₁.a_eq hw)
  l_eq hw := (h₂.l_eq hw).trans (h₁.l_eq hw)
  i_eq hw := (h₂.i_eq hw).trans (h₁.i_eq hw)
  i_rises hw hu := h₁.i_rises hw (h₂.i_rises hw hu)
  irqPending_eq := h₂.irqPending_eq.trans h₁.irqPending_eq
  irqRequests_eq := h₂.irqRequests_eq.trans h₁.irqRequests_eq
  tick_eq := h₂.tick_eq.trans h₁.tick_eq
  ir_eq := h₂.ir_eq.trans h₁.ir_eq

/-- An update of A alone, where A may be written. -/
theorem update_a (hw : w.a = true) (s : State) (a : Word) : Within w s { s with a := a } :=
  { refl w s with a_eq := fun h => absurd h (by simp [hw]) }

/-- An update of A and L, where both may be written. -/
theorem update_al (ha : w.a = true) (hl : w.l = true) (s : State) (a : Word) (l : Bool) :
    Within w s { s with a := a, l := l } :=
  { refl w s with
    a_eq := fun h => absurd h (by simp [ha])
    l_eq := fun h => absurd h (by simp [hl]) }

end Within

/-! ### The memory-reference instructions -/

/-- The addressing mode and the write-back touch no register that `Within` speaks of, so the
instruction's own accesses decide. -/
theorem memoryReference_within {w : RegWrites} {ind rel : Bool} {f : Field}
    {act : EA → State → Except Fault State} {s t : State}
    (hact : ∀ ea s₁ s₂, act ea s₁ = .ok s₂ → Within w s₁ s₂)
    (h : memoryReference ind rel f act s = .next t) : Within w s t := by
  obtain ⟨ea, s₁, s₂, hea, hown, hfin⟩ := memoryReference_eq_next.1 h
  have hmode : Within w s s₁ := by
    obtain ⟨-, -, rfl⟩ := effAddr_eq_ok.1 hea
    exact .update ..
  have hback : Within w s₂ t := by
    obtain ⟨-, rfl⟩ | ⟨p, v, -, -, rfl⟩ := finish_eq_ok.1 hfin
    · exact .refl ..
    · exact .update ..
  exact (hmode.trans (hact ea s₁ s₂ hown)).trans hback

theorem combine_within {w : RegWrites} {op : Word → State → State}
    (hop : ∀ m s, Within w s (op m s)) {ind rel : Bool} {f : Field} {s t : State}
    (h : combine op ind rel f s = .next t) : Within w s t := by
  refine memoryReference_within (fun ea s₁ s₂ hown => ?_) h
  split at hown
  · cases hown
  · next m s' hread =>
    obtain ⟨-, -, rfl⟩ := readDatum_eq_ok.1 hread
    cases hown
    exact .trans (.update ..) (hop m (putOut ea s₁))

/-- LOAD is a combination that forgets the old A. -/
theorem execLoad_within {w : RegWrites} (hw : w.a = true) {ind rel : Bool} {f : Field} {s t : State}
    (h : execLoad ind rel f s = .next t) : Within w s t :=
  combine_within (op := fun m s => { s with a := m }) (fun m s => .update_a hw s m) h

theorem jump_within (w : RegWrites) {ind rel : Bool} {f : Field} {s t : State}
    (h : jump ind rel f s = .next t) : Within w s t := by
  refine memoryReference_within (fun ea s₁ s₂ hown => ?_) h
  cases hown
  exact .update ..

theorem call_within (w : RegWrites) {slot : Word} {ind rel : Bool} {f : Field} {s t : State}
    (h : call slot ind rel f s = .next t) : Within w s t := by
  refine memoryReference_within (fun ea s₁ s₂ hown => ?_) h
  split at hown
  · cases hown
  · next s' hsave =>
    obtain ⟨-, rfl⟩ := saveReturn_eq_ok.1 hsave
    cases hown
    exact .update ..

theorem execStore_within (w : RegWrites) {ind rel : Bool} {f : Field} {s t : State}
    (h : execStore ind rel f s = .next t) : Within w s t := by
  refine memoryReference_within (fun ea s₁ s₂ hown => ?_) h
  obtain ⟨-, rfl⟩ := writeDatum_eq_ok.1 hown
  exact .update ..

theorem ioReadToA_within {w : RegWrites} (hw : w.a = true) (x : Word) (s : State) :
    Within w s (ioReadToA x s) :=
  (Within.update_a hw s (ioAnswer x s)).trans (.update ..)

theorem execIn_within {w : RegWrites} (hw : w.a = true) {ind rel : Bool} {f : Field} {s t : State}
    (h : execIn ind rel f s = .next t) : Within w s t := by
  refine memoryReference_within (fun ea s₁ s₂ hown => ?_) h
  cases hown
  exact .trans (.update ..) (ioReadToA_within hw ea.addr (putOut ea s₁))

theorem execOut_within (w : RegWrites) {ind rel : Bool} {f : Field} {s t : State}
    (h : execOut ind rel f s = .next t) : Within w s t := by
  refine memoryReference_within (fun ea s₁ s₂ hown => ?_) h
  cases hown
  exact .update ..

theorem execIot_within {w : RegWrites} (hw : w.a = true) {ind rel : Bool} {f : Field} {s t : State}
    (h : execIot ind rel f s = .next t) : Within w s t := by
  refine memoryReference_within (fun ea s₁ s₂ hown => ?_) h
  cases hown
  exact .trans (.update ..) (ioReadToA_within hw ea.addr (ioWriteFromA ea.addr (putOut ea s₁)))

/-! ### OP1 and OP2 -/

@[simp] theorem selected_false (op : State → State) (s : State) : selected false op s = s := rfl

/-- A field that a minor operation keeps is kept whether or not it is selected. -/
theorem selected_field {α : Type} (g : State → α) {op : State → State}
    (h : ∀ s, g (op s) = g s) (b : Bool) (s : State) : g (selected b op s) = g s := by
  cases b
  · rfl
  · exact h s

theorem op1State_a {m : Op1Bits} (h : (op1Writes m).a = false) (s : State) :
    (op1State m s).a = s.a := by
  obtain ⟨⟨⟨hcla, hnot⟩, hinc⟩, hroll⟩ :
      ((m.cla = false ∧ m.not = false) ∧ m.inc = false) ∧ m.roll = .none := by
    simpa [op1Writes] using h
  simp only [op1State, hcla, hnot, hinc, hroll, selected_false, minorRoll_none,
    selected_field State.a minorCll_a, selected_field State.a minorCpl_a]

theorem op1State_l {m : Op1Bits} (h : (op1Writes m).l = false) (s : State) :
    (op1State m s).l = s.l := by
  obtain ⟨⟨⟨hcll, hinc⟩, hcpl⟩, hroll⟩ :
      ((m.cll = false ∧ m.inc = false) ∧ m.cpl = false) ∧ m.roll = .none := by
    simpa [op1Writes] using h
  simp only [op1State, hcll, hinc, hcpl, hroll, selected_false, minorRoll_none,
    selected_field State.l minorCla_l, selected_field State.l minorNot_l]

theorem op1State_i (m : Op1Bits) (s : State) : (op1State m s).i = s.i := by
  rw [op1State_frame]

theorem op1State_within (m : Op1Bits) (s : State) : Within (op1Writes m) s (op1State m s) where
  a_eq h := op1State_a h s
  l_eq h := op1State_l h s
  i_eq _ := op1State_i m s
  i_rises _ h := (op1State_i m s).symm.trans h
  irqPending_eq := by rw [op1State_frame]
  irqRequests_eq := by rw [op1State_frame]
  tick_eq := by rw [op1State_frame]
  ir_eq := by rw [op1State_frame]

theorem op2State_a {m : Op2Bits} (h : m.cla2 = false) (s : State) : (op2State m s).a = s.a := by
  simp only [op2State, h, selected_false, selected_field State.a minorCli_a,
    selected_field State.a minorSti_a, minorSkip_a]

theorem selected_minorCli_i (b : Bool) (s : State) : (selected b minorCli s).i = (!b && s.i) := by
  cases b <;> rfl

theorem selected_minorSti_i (b : Bool) (s : State) : (selected b minorSti s).i = (b || s.i) := by
  cases b <;> rfl

/-- STI comes last (46_op2.md R203, decision D8): it decides I, then CLI does, else I is kept. -/
theorem op2State_i (m : Op2Bits) (s : State) : (op2State m s).i = (m.sti || (!m.cli && s.i)) := by
  simp only [op2State, selected_minorSti_i, selected_minorCli_i, selected_field State.i minorCla_i,
    minorSkip_i]

theorem op2State_within (m : Op2Bits) (s : State) : Within (op2Writes m) s (op2State m s) where
  a_eq h := op2State_a h s
  l_eq _ := by rw [op2State_frame]
  i_eq h := by
    obtain ⟨hcli, hsti⟩ : m.cli = false ∧ m.sti = false := by simpa [op2Writes] using h
    simp [op2State_i, hcli, hsti]
  i_rises h hi := by
    have hsti : m.sti = false := h
    simp only [op2State_i, hsti, Bool.false_or, Bool.and_eq_true] at hi
    exact hi.2
  irqPending_eq := by rw [op2State_frame]
  irqRequests_eq := by rw [op2State_frame]
  tick_eq := by rw [op2State_frame]
  ir_eq := by rw [op2State_frame]

theorem runOp1_within {ign : BitVec 2} {m : Op1Bits} {s t : State} (h : runOp1 ign m s = .next t) :
    Within (op1Writes m) s t := by
  obtain ⟨-, rfl⟩ := runOp1_eq_next.1 h
  exact op1State_within m s

theorem runOp2_within {ign : BitVec 2} {m : Op2Bits} {s t : State} (h : runOp2 ign m s = .next t) :
    Within (op2Writes m) s t := by
  obtain ⟨-, rfl⟩ := runOp2_eq_next.1 h
  exact op2State_within m s

/-! ### Every instruction -/

/-- Every instruction that goes on writes no more of A, L and I than the rules list. -/
theorem exec_within {i : Instr} {s t : State} (h : exec i s = .next t) :
    Within (regWrites i) s t := by
  cases i with
  | trap ind rel f | jsr ind rel f => exact call_within _ h
  | jmp ind rel f | ret | rtt => exact jump_within _ h
  | inp ind rel f => exact execIn_within rfl h
  | out ind rel f => exact execOut_within _ h
  | iot ind rel f => exact execIot_within rfl h
  | load ind rel f => exact execLoad_within rfl h
  | store ind rel f => exact execStore_within _ h
  | add ind rel f => exact combine_within (fun _ _ => .update_al rfl rfl _ _ _) h
  | and ind rel f | or ind rel f | xor ind rel f =>
    exact combine_within (fun _ _ => .update_a rfl _ _) h
  | op1 ign m => exact runOp1_within h
  | nop ign | cla ign | cll ign | not ign | inc ign | cpl ign
  | rbl ign | rbr ign | rnl ign | rnr ign
  | neg ign | ing ign | sbl ign | sbr ign | snl ign | snr ign => exact (runOp1_within h :)
  | op2 ign m => exact runOp2_within h
  | nop2 ign | sna ign | sza ign | ssl ign | skip ign | snn ign | snz ign | scl ign
  | cla2 ign | cli ign | sti ign | snp ign | spa ign => exact (runOp2_within h :)
  | lia ign rel f | li ign f =>
    cases h
    exact .update_a rfl _ _
  | reservedE bits => cases h

/-- Settles O45, by what every instruction may write. -/
theorem onlyTheseInstructionsWriteA : Obligations.OnlyTheseInstructionsWriteA :=
  fun _ _ _ h => (exec_within h).a_eq

/-- Settles O46, by what every instruction may write. -/
theorem onlyTheseInstructionsWriteL : Obligations.OnlyTheseInstructionsWriteL :=
  fun _ _ _ h => (exec_within h).l_eq

/-- Settles O47: the parameters are kept since an instruction only stores. -/
theorem onlyTheseInstructionsWriteI : Obligations.OnlyTheseInstructionsWriteI := by
  intro i s t h
  have hw := exec_within h
  exact ⟨hw.i_eq, hw.irqPending_eq, (exec_storesOnly h).cfg_eq, hw.irqRequests_eq, hw.tick_eq,
    hw.ir_eq⟩

/-! ### The boundary -/

/-- A boundary consumes the buffered interrupt, if there is one (60_exceptions.md R245). -/
theorem boundary_irqPending {b : Bool} {s t : State} (h : boundary b s = .next t) :
    t.irqPending = false := by
  obtain ⟨-, -, rfl⟩ | ⟨hnone, rfl⟩ := boundary_eq_next.1 h
  · exact enterIsr_irqPending _
  · exact hnone

/-- A boundary never sets I: the entry clears it, and otherwise it is kept. -/
theorem boundary_i_rises {b : Bool} {s t : State} (h : boundary b s = .next t) (ht : t.i = true) :
    s.i = true := by
  obtain ⟨-, -, rfl⟩ | ⟨-, rfl⟩ := boundary_eq_next.1 h
  · rw [enterIsr_i] at ht
    cases ht
  · exact ht

/-- Settles O43: every step ends in a boundary. -/
theorem noStepLeavesAnInterruptPending : Obligations.NoStepLeavesAnInterruptPending := by
  intro s t h
  obtain ⟨i, u, -, -, -, hbound⟩ := step_eq_next.1 h
  exact boundary_irqPending hbound

/-- Settles O44: neither the fetch nor the boundary sets I, so the decoded instruction did. -/
theorem interruptsAreAllowedOnlyBySti : Obligations.InterruptsAreAllowedOnlyBySti := by
  intro s t h hs ht
  obtain ⟨i, u, -, hdecode, hexec, hbound⟩ := step_eq_next.1 h
  refine ⟨i, hdecode, ?_⟩
  by_contra hset
  have hi : s.i = true :=
    (exec_within hexec).i_rises (Bool.not_eq_true _ ▸ hset) (boundary_i_rises hbound ht)
  rw [hs] at hi
  cases hi

/-! ### A word placed from outside, and reset -/

/-- PC is populated once a word is placed there (log 23). -/
theorem readable_withFetchWord (s : State) (nbits w : Nat) :
    readable s.pc (s.withFetchWord nbits w) = true := by
  by_cases h : readable s.pc s = true
  · have hcfg : (s.withFetchWord nbits w).cfg = s.cfg := if_pos h
    rw [readable_congr s.pc hcfg, h]
  · have hcfg : (s.withFetchWord nbits w).cfg =
        { s.cfg with memMap := ⟨s.pc, s.pc, .ram⟩ :: s.cfg.memMap } := if_neg h
    simp [readable, hcfg, kindAt]

theorem word_withFetchWord (s : State) (w : Word) :
    (s.withFetchWord 16 w.toNat).mem.word s.pc = w := by
  have hw : BitVec.ofNat 16 (w.toNat % 2 ^ 16) = w := by
    rw [Nat.mod_eq_of_lt w.isLt, BitVec.ofNat_toNat, BitVec.setWidth_eq]
  calc (s.withFetchWord 16 w.toNat).mem.word s.pc
    _ = BitVec.ofNat 16 (w.toNat % 2 ^ 16) := Memory.word_write_same ..
    _ = w := hw

/-- Settles O39: PC is populated and holds the word, so the fetch goes on with it. -/
theorem placedWordIsFetched : Obligations.PlacedWordIsFetched := fun s w =>
  ⟨_, fetch_of_readable (readable_withFetchWord s 16 w.toNat), word_withFetchWord s w, rfl⟩

/-- Settles O56, by the fields of the reset state and of the reset transition. -/
theorem resetSetsPcAndClearsI : Obligations.ResetSetsPcAndClearsI :=
  ⟨rfl, rfl, rfl, fun s => ⟨systemReset_pc s, systemReset_i s, systemReset_irqPending s,
    systemReset_mem s, systemReset_ioTrace s, systemReset_cfg s⟩⟩

end Sys2Proof.Machine

/-! ## Memory: what is stored, what stops, and what I/O records -/

namespace Sys2Proof.Machine

open Sys2Proof.Safety

/-! ### The canonical form -/

/-- However many writes under `MEM_MAP` keep the canonical form. -/
theorem pokes_wf {cfg : Config} {m m' : Memory} (h : Relation.ReflTransGen (PokedOnce cfg) m m')
    (hm : m.wf) : m'.wf := by
  induction h with
  | refl => exact hm
  | tail _ hpoke ih =>
    obtain ⟨x, v, rfl⟩ := hpoke
    exact pokeMem_wf cfg x v ih

/-- Settles O51: a step changes memory by writes under `MEM_MAP` only. -/
theorem stepKeepsMemoryCanonical : Obligations.StepKeepsMemoryCanonical :=
  fun _ _ hwf h => pokes_wf (step_storesOnly h).pokes hwf

/-- Settles O57: nothing is listed after reset. -/
theorem resetMemoryIsCanonical : Obligations.ResetMemoryIsCanonical := Memory.reset_wf

/-! ### Reads and writes that have no meaning, and reads after a write -/

/-- A read looks at `MEM_MAP` and at the word it reads. -/
theorem memRead_congr {x : Word} {s t : State} (hcfg : t.cfg = s.cfg)
    (hword : t.mem.word x = s.mem.word x) : memRead x t = memRead x s := by
  simp only [memRead, readable_congr x hcfg, hword]

/-- Which stop a refused write is depends on `MEM_MAP` alone. -/
theorem writeFault_congr {s t : State} (x : Word) (h : t.cfg = s.cfg) :
    writeFault x t = writeFault x s := by
  simp only [writeFault, h]

theorem accepts_of_absent {x : Word} {s : State} (h : kindAt s.cfg.memMap x = .absent) :
    accepts x s = false := by simp [accepts, h]

theorem accepts_of_refusing_rom {x : Word} {s : State} (h : kindAt s.cfg.memMap x = .rom)
    (hrom : s.cfg.romWrite = .refuse) : accepts x s = false := by simp [accepts, h, hrom]

theorem writeFault_of_absent {x : Word} {s : State} (h : kindAt s.cfg.memMap x = .absent) :
    writeFault x s = .absentMemory x := by simp [writeFault, h]

theorem writeFault_of_rom {x : Word} {s : State} (h : kindAt s.cfg.memMap x = .rom) :
    writeFault x s = .romWrite x := by simp [writeFault, h]

/-- Settles O54: an accepted write is one `pokeMem`, which changes that word if it is RAM and no
other. -/
theorem readAfterWrite : Obligations.ReadAfterWrite := by
  intro x v s t h
  obtain ⟨hacc, rfl⟩ := memWrite_eq_ok.1 h
  refine ⟨fun hram => ?_, fun hrom => ?_, fun y hy => ?_, pokeMem_wf s.cfg x v⟩
  · refine memRead_eq_ok.2 ⟨readable_of_accepts hacc, ?_⟩
    simp only [pokeMem_ram v s.mem hram, Memory.word_write_same]
  · have hkept : pokeMem s.cfg x v s.mem = s.mem := pokeMem_of_not_ram v s.mem (by simp [hrom])
    exact memRead_congr rfl (congrArg (·.word x) hkept)
  · exact memRead_congr rfl (word_pokeMem_other s.cfg v s.mem hy.symm)

theorem readDatum_of_not_readable {ea : EA} {s : State} (h : readable ea.addr s = false) :
    readDatum ea s = .error (.absentMemory ea.addr) := by
  simp only [readDatum, memRead_of_not_readable h]

theorem writeDatum_of_not_accepts {ea : EA} (v : Word) {s : State}
    (h : accepts ea.addr s = false) : writeDatum ea v s = .error (writeFault ea.addr s) :=
  memWrite_of_not_accepts (s := putOut ea s) v h

theorem saveReturn_of_not_accepts {slot : Word} {s : State} (h : accepts slot s = false) :
    saveReturn slot s = .error (writeFault slot s) :=
  memWrite_of_not_accepts (s := { s with mar := slot }) s.pc h

/-! ### The addressing mode, once its pointer can be read -/

/-- What the addressing mode leaves for the instruction. -/
def modeEA (ind rel : Bool) (f : Field) (s : State) : EA where
  addr := effective ind rel f s
  indirect := ind
  wb := if autoindexed ind rel f s then some (opnd rel f s, effective ind rel f s + 1#16) else none

/-- The state in which the instruction's own accesses begin. -/
def afterMode (ind rel : Bool) (f : Field) (s : State) : State :=
  { s with
    mar := if ind then opnd rel f s else s.mar
    dr := if ind then effective ind rel f s else s.dr }

section
variable (ind rel : Bool) (f : Field) (s : State)

@[simp] theorem modeEA_addr : (modeEA ind rel f s).addr = effective ind rel f s := rfl
@[simp] theorem afterMode_a : (afterMode ind rel f s).a = s.a := rfl
@[simp] theorem afterMode_pc : (afterMode ind rel f s).pc = s.pc := rfl
@[simp] theorem afterMode_mem : (afterMode ind rel f s).mem = s.mem := rfl
@[simp] theorem afterMode_ioTrace : (afterMode ind rel f s).ioTrace = s.ioTrace := rfl
@[simp] theorem afterMode_cfg : (afterMode ind rel f s).cfg = s.cfg := rfl

end

section
variable {ind rel : Bool} {f : Field} {s t u : State}

theorem effAddr_eq_mode {ea : EA} :
    effAddr ind rel f s = .ok (ea, t) ↔
      (ind = true → readable (opnd rel f s) s = true) ∧
        ea = modeEA ind rel f s ∧ t = afterMode ind rel f s := effAddr_eq_ok

theorem effAddr_of_readable (h : ind = true → readable (opnd rel f s) s = true) :
    effAddr ind rel f s = .ok (modeEA ind rel f s, afterMode ind rel f s) :=
  effAddr_eq_mode.2 ⟨h, rfl, rfl⟩

/-- The write-back: none, or the pointer plus one into the pointer's word. -/
theorem finish_modeEA_eq_ok :
    finish (modeEA ind rel f s) u = .ok t ↔
      (autoindexed ind rel f s = false ∧ t = u) ∨
      (autoindexed ind rel f s = true ∧ accepts (opnd rel f s) u = true ∧
        t = { u with
          mar := opnd rel f s
          mem := pokeMem u.cfg (opnd rel f s) (effective ind rel f s + 1#16) u.mem }) := by
  rw [finish_eq_ok]
  cases h : autoindexed ind rel f s <;> simp [modeEA, h]

theorem finish_modeEA_of_not_accepts (hauto : autoindexed ind rel f s = true)
    (h : accepts (opnd rel f s) u = false) :
    finish (modeEA ind rel f s) u = .error (writeFault (opnd rel f s) u) := by
  simp only [finish, modeEA, hauto, if_true]
  exact memWrite_of_not_accepts (s := { u with mar := opnd rel f s }) _ h

/-! ### Everything a memory-reference instruction can do -/

variable {act : EA → State → Except Fault State}

theorem memoryReference_eq_next_mode :
    memoryReference ind rel f act s = .next t ↔
      (ind = true → readable (opnd rel f s) s = true) ∧
        ∃ u, act (modeEA ind rel f s) (afterMode ind rel f s) = .ok u ∧
          finish (modeEA ind rel f s) u = .ok t := by
  rw [memoryReference_eq_next]
  simp only [effAddr_eq_mode]
  constructor
  · rintro ⟨_, _, u, ⟨hptr, rfl, rfl⟩, hown, hfin⟩
    exact ⟨hptr, u, hown, hfin⟩
  · rintro ⟨hptr, u, hown, hfin⟩
    exact ⟨_, _, u, ⟨hptr, rfl, rfl⟩, hown, hfin⟩

theorem memoryReference_fault_of_pointer (h : readable (opnd rel f s) s = false) :
    memoryReference true rel f act s = .fault (.absentMemory (opnd rel f s)) := by
  simp only [memoryReference, effAddr, memRead_of_not_readable h, settle]

theorem memoryReference_fault_of_access {r : Fault}
    (hptr : ind = true → readable (opnd rel f s) s = true)
    (hown : act (modeEA ind rel f s) (afterMode ind rel f s) = .error r) :
    memoryReference ind rel f act s = .fault r := by
  simp only [memoryReference, effAddr_of_readable hptr, hown, settle]

theorem memoryReference_fault_of_writeBack
    (hptr : ind = true → readable (opnd rel f s) s = true)
    (hown : act (modeEA ind rel f s) (afterMode ind rel f s) = .ok u) (hcfg : u.cfg = s.cfg)
    (hauto : autoindexed ind rel f s = true) (hacc : accepts (opnd rel f s) s = false) :
    memoryReference ind rel f act s = .fault (writeFault (opnd rel f s) s) := by
  have hback : finish (modeEA ind rel f s) u = .error (writeFault (opnd rel f s) u) :=
    finish_modeEA_of_not_accepts hauto ((accepts_congr _ hcfg).trans hacc)
  simp only [memoryReference, effAddr_of_readable hptr, hown, hback, settle,
    writeFault_congr _ hcfg]

end

/-! ### The memory-reference instructions by their own accesses -/

/-- The instructions whose own access is the read of a datum: LOAD, ADD, AND, OR and XOR. -/
theorem exec_of_reads {c : Bool → Bool → Field → Instr}
    (hc : c ∈ [Instr.load, .add, .and, .or, .xor]) :
    ∃ op, (∀ m s, (op m s).cfg = s.cfg) ∧
      ∀ ind rel f s, exec (c ind rel f) s = combine op ind rel f s := by
  simp only [List.mem_cons, List.not_mem_nil, or_false] at hc
  rcases hc with rfl | rfl | rfl | rfl | rfl
  · exact ⟨fun m s => { s with a := m }, fun _ _ => rfl, fun _ _ _ _ => rfl⟩
  · exact ⟨fun m s => { s with a := addA s.a m, l := addL s.l s.a m }, fun _ _ => rfl,
      fun _ _ _ _ => rfl⟩
  · exact ⟨fun m s => { s with a := s.a &&& m }, fun _ _ => rfl, fun _ _ _ _ => rfl⟩
  · exact ⟨fun m s => { s with a := s.a ||| m }, fun _ _ => rfl, fun _ _ _ _ => rfl⟩
  · exact ⟨fun m s => { s with a := s.a ^^^ m }, fun _ _ => rfl, fun _ _ _ _ => rfl⟩

/-- The instructions whose own accesses leave memory space alone: IN, OUT, IOT and JMP. -/
theorem exec_of_no_memory_access {c : Bool → Bool → Field → Instr}
    (hc : c ∈ [Instr.inp, .out, .iot, .jmp]) :
    ∃ g : EA → State → State, (∀ ea s, (g ea s).cfg = s.cfg) ∧
      ∀ ind rel f s, exec (c ind rel f) s =
        memoryReference ind rel f (fun ea s => .ok (g ea s)) s := by
  simp only [List.mem_cons, List.not_mem_nil, or_false] at hc
  rcases hc with rfl | rfl | rfl | rfl
  · exact ⟨fun ea s => ioReadToA ea.addr (putOut ea s), fun _ _ => rfl, fun _ _ _ _ => rfl⟩
  · exact ⟨fun ea s => ioWriteFromA ea.addr (putOut ea s), fun _ _ => rfl, fun _ _ _ _ => rfl⟩
  · exact ⟨fun ea s => ioReadToA ea.addr (ioWriteFromA ea.addr (putOut ea s)), fun _ _ => rfl,
      fun _ _ _ _ => rfl⟩
  · exact ⟨fun ea s => { s with pc := ea.addr }, fun _ _ => rfl, fun _ _ _ _ => rfl⟩

/-- The twelve memory-reference instructions differ in their own accesses only. -/
theorem exec_memoryReferences {c : Bool → Bool → Field → Instr} (hc : c ∈ memoryReferences) :
    ∃ act, ∀ ind rel f s, exec (c ind rel f) s = memoryReference ind rel f act s := by
  have hcases : c ∈ [Instr.load, .add, .and, .or, .xor] ∨ c ∈ [Instr.inp, .out, .iot, .jmp] ∨
      c ∈ [Instr.store, .jsr, .trap] := by
    simp only [memoryReferences, List.mem_cons, List.not_mem_nil, or_false] at hc ⊢
    tauto
  rcases hcases with hread | hnone | hwrite
  · obtain ⟨op, -, hexec⟩ := exec_of_reads hread
    exact ⟨_, hexec⟩
  · obtain ⟨g, -, hexec⟩ := exec_of_no_memory_access hnone
    exact ⟨_, hexec⟩
  · simp only [List.mem_cons, List.not_mem_nil, or_false] at hwrite
    rcases hwrite with rfl | rfl | rfl <;> exact ⟨_, fun _ _ _ _ => rfl⟩

section
variable {ind rel : Bool} {f : Field} {s t : State}

theorem combine_fault_of_datum {op : Word → State → State}
    (hptr : ind = true → readable (opnd rel f s) s = true)
    (h : readable (effective ind rel f s) s = false) :
    combine op ind rel f s = .fault (.absentMemory (effective ind rel f s)) := by
  refine memoryReference_fault_of_access hptr ?_
  have hread : readDatum (modeEA ind rel f s) (afterMode ind rel f s) =
    .error (.absentMemory (effective ind rel f s)) := readDatum_of_not_readable h
  simp only [hread]

theorem combine_fault_of_writeBack {op : Word → State → State} (hop : ∀ m s, (op m s).cfg = s.cfg)
    (hptr : ind = true → readable (opnd rel f s) s = true)
    (h : readable (effective ind rel f s) s = true)
    (hauto : autoindexed ind rel f s = true) (hacc : accepts (opnd rel f s) s = false) :
    combine op ind rel f s = .fault (writeFault (opnd rel f s) s) := by
  have hread : readDatum (modeEA ind rel f s) (afterMode ind rel f s) =
    .ok (s.mem.word (effective ind rel f s),
      putOut (modeEA ind rel f s) (afterMode ind rel f s)) := readDatum_eq_ok.2 ⟨h, rfl, rfl⟩
  refine memoryReference_fault_of_writeBack (u := op (s.mem.word (effective ind rel f s))
    (putOut (modeEA ind rel f s) (afterMode ind rel f s))) hptr (by simp only [hread]) ?_ hauto hacc
  rw [hop, putOut_cfg, afterMode_cfg]

theorem call_fault_of_slot {slot : Word} (hptr : ind = true → readable (opnd rel f s) s = true)
    (h : accepts slot s = false) : call slot ind rel f s = .fault (writeFault slot s) := by
  refine memoryReference_fault_of_access hptr ?_
  have hsave : saveReturn slot (afterMode ind rel f s) = .error (writeFault slot s) :=
    saveReturn_of_not_accepts h
  simp only [hsave]

theorem call_fault_of_writeBack {slot : Word}
    (hptr : ind = true → readable (opnd rel f s) s = true) (h : accepts slot s = true)
    (hauto : autoindexed ind rel f s = true) (hacc : accepts (opnd rel f s) s = false) :
    call slot ind rel f s = .fault (writeFault (opnd rel f s) s) := by
  have hsave : saveReturn slot (afterMode ind rel f s) = .ok _ := saveReturn_eq_ok.2 ⟨h, rfl⟩
  exact memoryReference_fault_of_writeBack (u := { afterMode ind rel f s with
      mar := slot
      mem := pokeMem s.cfg slot s.pc s.mem
      pc := effective ind rel f s }) hptr (by simp only [hsave]; rfl) rfl hauto hacc

theorem jump_fault_of_pointer (h : readable (opnd rel f s) s = false) :
    jump true rel f s = .fault (.absentMemory (opnd rel f s)) := memoryReference_fault_of_pointer h

theorem execStore_fault_of_target (hptr : ind = true → readable (opnd rel f s) s = true)
    (h : accepts (effective ind rel f s) s = false) :
    execStore ind rel f s = .fault (writeFault (effective ind rel f s) s) :=
  memoryReference_fault_of_access hptr (writeDatum_of_not_accepts _ h)

theorem execStore_fault_of_writeBack (hptr : ind = true → readable (opnd rel f s) s = true)
    (h : accepts (effective ind rel f s) s = true)
    (hauto : autoindexed ind rel f s = true) (hacc : accepts (opnd rel f s) s = false) :
    execStore ind rel f s = .fault (writeFault (opnd rel f s) s) :=
  memoryReference_fault_of_writeBack hptr (writeDatum_eq_ok.2 ⟨h, rfl⟩) rfl hauto hacc

end

/-- Settles O21: the pointer stops the addressing mode, the datum or the target stops the
instruction's own access. -/
theorem accessesWithoutMeaningStop : Obligations.AccessesWithoutMeaningStop := by
  intro ind rel f s
  refine ⟨fun hptr c hc => ?_, fun hptr =>
    ⟨fun hdatum c hc => ?_, fun habs => ?_, fun hrom href => ?_⟩⟩
  · obtain ⟨act, hexec⟩ := exec_memoryReferences hc
    exact (hexec ..).trans (memoryReference_fault_of_pointer hptr)
  · obtain ⟨op, -, hexec⟩ := exec_of_reads hc
    exact (hexec ..).trans (combine_fault_of_datum hptr hdatum)
  · rw [← writeFault_of_absent habs]
    exact execStore_fault_of_target hptr (accepts_of_absent habs)
  · rw [← writeFault_of_rom hrom]
    exact execStore_fault_of_target hptr (accepts_of_refusing_rom hrom href)

theorem interruptEntry_of_not_accepts {s : State} (hirq : s.irqPending = true)
    (h : accepts isrretSlot s = false) :
    interruptEntry s = .error (writeFault isrretSlot s) := by
  simp [interruptEntry, hirq, h]

/-- Settles O22: a slot stops the instruction's own access, a pointer that takes no write-back stops
`finish`, and RET and RTT stop at their pointer. -/
theorem savesAndWriteBacksWithoutMeaningStop :
    Obligations.SavesAndWriteBacksWithoutMeaningStop := by
  intro ind rel f s
  refine ⟨fun hptr => ⟨call_fault_of_slot hptr, call_fault_of_slot hptr, fun hauto hacc =>
      ⟨fun c hc => ?_, fun hdatum c hc => ?_, fun htarget => ?_, fun hslot => ?_, fun hslot => ?_⟩⟩,
    jump_fault_of_pointer (rel := false) (f := 0x000#10),
    jump_fault_of_pointer (rel := false) (f := 0x001#10), interruptEntry_of_not_accepts⟩
  · obtain ⟨g, hg, hexec⟩ := exec_of_no_memory_access hc
    exact (hexec ..).trans (memoryReference_fault_of_writeBack hptr rfl (hg ..) hauto hacc)
  · obtain ⟨op, hop, hexec⟩ := exec_of_reads hc
    exact (hexec ..).trans (combine_fault_of_writeBack hop hptr hdatum hauto hacc)
  · exact execStore_fault_of_writeBack hptr htarget hauto hacc
  · exact call_fault_of_writeBack hptr hslot hauto hacc
  · exact call_fault_of_writeBack hptr hslot hauto hacc

end Sys2Proof.Machine

/-! ## Where an instruction stores, and which I/O accesses it makes -/

namespace Sys2Proof.Safety

open Sys2Proof.Machine

/-! ### Memory that agrees outside some words -/

section
variable {xs ys : List Word} {m m' m'' : Memory}

theorem SameOutside.refl (xs : List Word) (m : Memory) : SameOutside xs m m := fun _ _ => rfl

theorem SameOutside.of_eq (h : m' = m) : SameOutside xs m m' := fun k _ => congrArg (·.byte k) h

theorem SameOutside.trans (h₁ : SameOutside xs m m') (h₂ : SameOutside ys m' m'') :
    SameOutside (xs ++ ys) m m'' := fun k hk =>
  (h₂ k fun x hx => hk x (List.mem_append_right xs hx)).trans
    (h₁ k fun x hx => hk x (List.mem_append_left ys hx))

theorem SameOutside.mono (h : SameOutside xs m m') (hsub : xs ⊆ ys) : SameOutside ys m m' :=
  fun k hk => h k fun x hx => hk x (hsub hx)

theorem sameOutside_pokeMem (cfg : Config) (x v : Word) (m : Memory) :
    SameOutside [x] m (pokeMem cfg x v m) :=
  fun _ hk => byte_pokeMem_other cfg x v m (hk x List.mem_cons_self)

end

end Sys2Proof.Safety

namespace Sys2Proof.Machine

open Sys2Proof.Safety

/-! ### The memory-reference instructions -/

section
variable {ind rel : Bool} {f : Field} {s t u : State} {act : EA → State → Except Fault State}

/-- The write-back changes the pointer's word and, besides it, MAR. -/
theorem finish_modeEA_sameOutside (h : finish (modeEA ind rel f s) u = .ok t) :
    SameOutside (writeBackTo ind rel f s) u.mem t.mem := by
  obtain ⟨-, rfl⟩ | ⟨hauto, -, rfl⟩ := finish_modeEA_eq_ok.1 h
  · exact .refl _ _
  · rw [writeBackTo, if_pos hauto]
    exact sameOutside_pokeMem _ _ _ _

/-- Stored are the words of the instruction's own accesses and the pointer that is written back. -/
theorem memoryReference_sameOutside {xs : List Word}
    (hown : ∀ u, act (modeEA ind rel f s) (afterMode ind rel f s) = .ok u →
      SameOutside xs s.mem u.mem)
    (h : memoryReference ind rel f act s = .next t) :
    SameOutside (xs ++ writeBackTo ind rel f s) s.mem t.mem := by
  obtain ⟨-, u, hact, hfin⟩ := memoryReference_eq_next_mode.1 h
  exact (hown u hact).trans (finish_modeEA_sameOutside hfin)

theorem combine_sameOutside {op : Word → State → State}
    (h : combine op ind rel f s = .next t) (hop : ∀ m s, (op m s).mem = s.mem) :
    SameOutside (writeBackTo ind rel f s) s.mem t.mem := by
  refine memoryReference_sameOutside (xs := []) (fun u hown => ?_) h
  split at hown
  · cases hown
  · next m s₂ hread =>
    obtain ⟨-, -, rfl⟩ := readDatum_eq_ok.1 hread
    cases hown
    exact .of_eq (hop ..)

theorem execLoad_sameOutside (h : execLoad ind rel f s = .next t) :
    SameOutside (writeBackTo ind rel f s) s.mem t.mem :=
  combine_sameOutside (op := fun m s => { s with a := m }) h fun _ _ => rfl

/-- The own accesses of IN, OUT, IOT and JMP leave memory space alone. -/
theorem memoryReference_ok_sameOutside {g : EA → State → State}
    (h : memoryReference ind rel f (fun ea s => .ok (g ea s)) s = .next t)
    (hg : ∀ ea s, (g ea s).mem = s.mem) :
    SameOutside (writeBackTo ind rel f s) s.mem t.mem := by
  refine memoryReference_sameOutside (xs := []) (fun u hown => ?_) h
  cases hown
  exact .of_eq (hg ..)

theorem call_sameOutside {slot : Word} (h : call slot ind rel f s = .next t) :
    SameOutside (slot :: writeBackTo ind rel f s) s.mem t.mem := by
  refine memoryReference_sameOutside (xs := [slot]) (fun u hown => ?_) h
  split at hown
  · cases hown
  · next s₂ hsave =>
    obtain ⟨-, rfl⟩ := saveReturn_eq_ok.1 hsave
    cases hown
    exact sameOutside_pokeMem _ _ _ _

theorem execStore_sameOutside (h : execStore ind rel f s = .next t) :
    SameOutside (effective ind rel f s :: writeBackTo ind rel f s) s.mem t.mem := by
  refine memoryReference_sameOutside (xs := [effective ind rel f s]) (fun u hown => ?_) h
  obtain ⟨-, rfl⟩ := writeDatum_eq_ok.1 hown
  exact sameOutside_pokeMem _ _ _ _

end

/-! ### Every instruction -/

theorem runOp1_mem {ign : BitVec 2} {m : Op1Bits} {s t : State} (h : runOp1 ign m s = .next t) :
    t.mem = s.mem := by
  obtain ⟨-, rfl⟩ := runOp1_eq_next.1 h
  rw [op1State_frame]

theorem runOp2_mem {ign : BitVec 2} {m : Op2Bits} {s t : State} (h : runOp2 ign m s = .next t) :
    t.mem = s.mem := by
  obtain ⟨-, rfl⟩ := runOp2_eq_next.1 h
  rw [op2State_frame]

/-- Settles O48, by the words that each instruction's own accesses and its write-back store to. -/
theorem memoryChangesOnlyWhereStored : Obligations.MemoryChangesOnlyWhereStored := by
  intro i s t h
  cases i with
  | trap ind rel f | jsr ind rel f => exact call_sameOutside h
  | store ind rel f => exact execStore_sameOutside h
  | jmp ind rel f | ret | rtt | inp ind rel f | out ind rel f | iot ind rel f =>
    exact memoryReference_ok_sameOutside h fun _ _ => rfl
  | load ind rel f => exact execLoad_sameOutside h
  | add ind rel f | and ind rel f | or ind rel f | xor ind rel f =>
    exact combine_sameOutside h fun _ _ => rfl
  | op1 ign m | nop ign | cla ign | cll ign | not ign | inc ign | cpl ign
  | rbl ign | rbr ign | rnl ign | rnr ign
  | neg ign | ing ign | sbl ign | sbr ign | snl ign | snr ign => exact .of_eq (runOp1_mem h :)
  | op2 ign m | nop2 ign | sna ign | sza ign | ssl ign | skip ign | snn ign | snz ign | scl ign
  | cla2 ign | cli ign | sti ign | snp ign | spa ign => exact .of_eq (runOp2_mem h :)
  | lia ign rel f | li ign f =>
    cases h
    exact .refl _ _
  | reservedE bits => cases h

/-- A boundary stores to word 0002 at most, where the interrupt entry saves PC. -/
theorem boundary_sameOutside {b : Bool} {s t : State} (h : boundary b s = .next t) :
    SameOutside [isrretSlot] s.mem t.mem := by
  obtain ⟨-, -, rfl⟩ | ⟨-, rfl⟩ := boundary_eq_next.1 h
  · exact sameOutside_pokeMem _ _ _ _
  · exact .refl _ _

/-- Settles O49: the fetch stores nothing, the instruction stores to its words, the boundary to word
0002. -/
theorem stepChangesOnlyTheStoredWords : Obligations.StepChangesOnlyTheStoredWords := by
  intro s t h
  obtain ⟨i, u, -, hdecode, hexec, hbound⟩ := step_eq_next.1 h
  have hinstr : SameOutside (storesTo i (fetched s)) s.mem u.mem :=
    memoryChangesOnlyWhereStored i (fetched s) u hexec
  refine ⟨i, hdecode, (hinstr.trans (boundary_sameOutside hbound)).mono ?_⟩
  simp [isrretSlot]

/-! ### A store to the next instruction -/

/-- STORE in closed form, but for MAR and DR. -/
theorem execStore_next {ind rel : Bool} {f : Field} {s t : State}
    (h : execStore ind rel f s = .next t) :
    t.pc = s.pc ∧ t.cfg = s.cfg ∧
      t.mem = afterWriteBack ind rel f s (pokeMem s.cfg (effective ind rel f s) s.a s.mem) := by
  obtain ⟨-, u, hown, hfin⟩ := memoryReference_eq_next_mode.1 h
  obtain ⟨-, rfl⟩ := writeDatum_eq_ok.1 hown
  unfold afterWriteBack
  obtain ⟨hauto, rfl⟩ | ⟨hauto, -, rfl⟩ := finish_modeEA_eq_ok.1 hfin
  · exact ⟨rfl, rfl, by simp [hauto]⟩
  · exact ⟨rfl, rfl, by simp [hauto]⟩

theorem word_afterWriteBack_other {ind rel : Bool} {f : Field} {s : State} {x : Word} (m : Memory)
    (h : ¬(autoindexed ind rel f s = true ∧ opnd rel f s = x)) :
    (afterWriteBack ind rel f s m).word x = m.word x := by
  unfold afterWriteBack
  split
  · next hauto => exact word_pokeMem_other s.cfg _ m fun hx => h ⟨hauto, hx⟩
  · rfl

/-- Settles O55: STORE leaves PC and `MEM_MAP` alone, and its write-back passes over the word at
PC. -/
theorem storeIsSeenByTheNextFetch : Obligations.StoreIsSeenByTheNextFetch := by
  intro ind rel f s t h heff hram hback
  obtain ⟨hpc, hcfg, hmem⟩ := execStore_next h
  have hread : readable t.pc t = true := by
    rw [hpc, readable_congr s.pc hcfg]
    exact readable_of_accepts (accepts_of_ram hram)
  refine ⟨_, fetch_of_readable hread, ?_⟩
  calc t.mem.word t.pc
    _ = (pokeMem s.cfg s.pc s.a s.mem).word s.pc := by
      rw [hpc, hmem, word_afterWriteBack_other _ hback, heff]
    _ = s.a := by rw [pokeMem_ram s.a s.mem hram, Memory.word_write_same]

/-! ### The I/O accesses of an instruction -/

/-- From `s` to `t` the record of I/O has only been added to, and by `n` events at most. -/
def AddsEvents (n : Nat) (s t : State) : Prop :=
  ∃ es, t.ioTrace = s.ioTrace ++ es ∧ es.length ≤ n

/-- How many I/O accesses an instruction makes (20_memory.md R51, R55). -/
def ioAccesses : Instr → Nat
  | .iot .. => 2
  | .inp .. | .out .. => 1
  | _ => 0

theorem AddsEvents.of_eq {n : Nat} {s t : State} (h : t.ioTrace = s.ioTrace) : AddsEvents n s t :=
  ⟨[], by simp [h], Nat.zero_le n⟩

section
variable {n : Nat} {ind rel : Bool} {f : Field} {s t u : State}
  {act : EA → State → Except Fault State}

theorem finish_modeEA_ioTrace (h : finish (modeEA ind rel f s) u = .ok t) :
    t.ioTrace = u.ioTrace := by
  obtain ⟨-, rfl⟩ | ⟨-, -, rfl⟩ := finish_modeEA_eq_ok.1 h <;> rfl

/-- Only the instruction's own accesses can be I/O (40_addressing_modes.md R121). -/
theorem memoryReference_addsEvents
    (hown : ∀ u, act (modeEA ind rel f s) (afterMode ind rel f s) = .ok u → AddsEvents n s u)
    (h : memoryReference ind rel f act s = .next t) : AddsEvents n s t := by
  obtain ⟨-, u, hact, hfin⟩ := memoryReference_eq_next_mode.1 h
  rw [AddsEvents, finish_modeEA_ioTrace hfin]
  exact hown u hact

theorem combine_addsEvents {op : Word → State → State}
    (h : combine op ind rel f s = .next t) (hop : ∀ m s, (op m s).ioTrace = s.ioTrace) :
    AddsEvents n s t := by
  refine memoryReference_addsEvents (fun u hown => ?_) h
  split at hown
  · cases hown
  · next m s₂ hread =>
    obtain ⟨-, -, rfl⟩ := readDatum_eq_ok.1 hread
    cases hown
    exact .of_eq (hop ..)

theorem execLoad_addsEvents (h : execLoad ind rel f s = .next t) : AddsEvents n s t :=
  combine_addsEvents (op := fun m s => { s with a := m }) h fun _ _ => rfl

theorem jump_addsEvents (h : jump ind rel f s = .next t) : AddsEvents n s t := by
  refine memoryReference_addsEvents (fun u hown => ?_) h
  cases hown
  exact .of_eq rfl

theorem call_addsEvents {slot : Word} (h : call slot ind rel f s = .next t) :
    AddsEvents n s t := by
  refine memoryReference_addsEvents (fun u hown => ?_) h
  split at hown
  · cases hown
  · next s₂ hsave =>
    obtain ⟨-, rfl⟩ := saveReturn_eq_ok.1 hsave
    cases hown
    exact .of_eq rfl

theorem execStore_addsEvents (h : execStore ind rel f s = .next t) : AddsEvents n s t := by
  refine memoryReference_addsEvents (fun u hown => ?_) h
  obtain ⟨-, rfl⟩ := writeDatum_eq_ok.1 hown
  exact .of_eq rfl

theorem execIn_addsEvents (h : execIn ind rel f s = .next t) : AddsEvents 1 s t := by
  refine memoryReference_addsEvents (fun u hown => ?_) h
  cases hown
  exact ⟨[_], rfl, Nat.le_refl 1⟩

theorem execOut_addsEvents (h : execOut ind rel f s = .next t) : AddsEvents 1 s t := by
  refine memoryReference_addsEvents (fun u hown => ?_) h
  cases hown
  exact ⟨[_], rfl, Nat.le_refl 1⟩

theorem execIot_addsEvents (h : execIot ind rel f s = .next t) : AddsEvents 2 s t := by
  refine memoryReference_addsEvents (fun u hown => ?_) h
  cases hown
  exact ⟨[_, _], List.append_assoc .., Nat.le_refl 2⟩

end

theorem runOp1_addsEvents {n : Nat} {ign : BitVec 2} {m : Op1Bits} {s t : State}
    (h : runOp1 ign m s = .next t) : AddsEvents n s t := by
  obtain ⟨-, rfl⟩ := runOp1_eq_next.1 h
  rw [op1State_frame]
  exact .of_eq rfl

theorem runOp2_addsEvents {n : Nat} {ign : BitVec 2} {m : Op2Bits} {s t : State}
    (h : runOp2 ign m s = .next t) : AddsEvents n s t := by
  obtain ⟨-, rfl⟩ := runOp2_eq_next.1 h
  rw [op2State_frame]
  exact .of_eq rfl

/-- No instruction records more I/O events than it makes accesses. -/
theorem exec_addsEvents {i : Instr} {s t : State} (h : exec i s = .next t) :
    AddsEvents (ioAccesses i) s t := by
  cases i with
  | iot ind rel f => exact execIot_addsEvents h
  | inp ind rel f => exact execIn_addsEvents h
  | out ind rel f => exact execOut_addsEvents h
  | trap ind rel f | jsr ind rel f => exact call_addsEvents h
  | jmp ind rel f | ret | rtt => exact jump_addsEvents h
  | load ind rel f => exact execLoad_addsEvents h
  | store ind rel f => exact execStore_addsEvents h
  | add ind rel f | and ind rel f | or ind rel f | xor ind rel f =>
    exact combine_addsEvents h fun _ _ => rfl
  | op1 ign m | nop ign | cla ign | cll ign | not ign | inc ign | cpl ign
  | rbl ign | rbr ign | rnl ign | rnr ign
  | neg ign | ing ign | sbl ign | sbr ign | snl ign | snr ign => exact (runOp1_addsEvents h :)
  | op2 ign m | nop2 ign | sna ign | sza ign | ssl ign | skip ign | snn ign | snz ign | scl ign
  | cla2 ign | cli ign | sti ign | snp ign | spa ign => exact (runOp2_addsEvents h :)
  | lia ign rel f | li ign f =>
    cases h
    exact .of_eq rfl
  | reservedE bits => cases h

theorem boundary_ioTrace {b : Bool} {s t : State} (h : boundary b s = .next t) :
    t.ioTrace = s.ioTrace := by
  obtain ⟨-, -, rfl⟩ | ⟨-, rfl⟩ := boundary_eq_next.1 h <;> rfl

/-! ### The opcodes that make I/O accesses -/

theorem ioAccesses_le_two (i : Instr) : ioAccesses i ≤ 2 := by
  unfold ioAccesses
  split <;> omega

theorem ioAccesses_nameJmp (ind rel : Bool) (f : Field) : ioAccesses (nameJmp ind rel f) = 0 := by
  unfold nameJmp
  split_ifs <;> rfl

theorem ioAccesses_nameLia (ign rel : Bool) (f : Field) : ioAccesses (nameLia ign rel f) = 0 := by
  cases rel <;> rfl

theorem ioAccesses_nameOp1 (ign : BitVec 2) (m : Op1Bits) : ioAccesses (nameOp1 ign m) = 0 := by
  unfold nameOp1
  split <;> rfl

theorem ioAccesses_nameOp2 (ign : BitVec 2) (m : Op2Bits) : ioAccesses (nameOp2 ign m) = 0 := by
  unfold nameOp2
  split <;> rfl

theorem ioAccesses_of_decodeOp1 {w : Word} {i : Instr} (h : decodeOp1 w = .ok i) :
    ioAccesses i = 0 := by
  unfold decodeOp1 at h
  split at h
  · cases h
  · cases h
    exact ioAccesses_nameOp1 ..

theorem ioAccesses_of_decodeOp2 {w : Word} {i : Instr} (h : decodeOp2 w = .ok i) :
    ioAccesses i = 0 := by
  unfold decodeOp2 at h
  split at h
  · cases h
  · cases h
    exact ioAccesses_nameOp2 ..

/-- The words of IN, OUT and IOT are those of three opcodes (30_encoding.md R82). -/
theorem opcodeOf_of_ioAccesses {w : Word} {i : Instr} (h : decode w = .ok i)
    (hio : ioAccesses i ≠ 0) : opcodeOf w = 0x1#4 ∨ opcodeOf w = 0x4#4 ∨ opcodeOf w = 0x5#4 := by
  unfold decode at h
  split at h
  case h_2 hop => exact .inl (BitVec.eq_of_toNat_eq hop)
  case h_5 hop => exact .inr (.inl (BitVec.eq_of_toNat_eq hop))
  case h_6 hop => exact .inr (.inr (BitVec.eq_of_toNat_eq hop))
  case h_7 => cases h; exact absurd (ioAccesses_nameJmp ..) hio
  case h_13 => exact absurd (ioAccesses_of_decodeOp1 h) hio
  case h_14 => exact absurd (ioAccesses_of_decodeOp2 h) hio
  case h_16 => cases h; exact absurd (ioAccesses_nameLia ..) hio
  all_goals
    cases h
    exact absurd rfl hio

/-- Settles O52: the fetch and the boundary make no I/O access, and the instruction makes two at
most. -/
theorem ioEventsAreRecordedInOrder : Obligations.IoEventsAreRecordedInOrder := by
  intro s t h
  obtain ⟨i, u, -, hdecode, hexec, hbound⟩ := step_eq_next.1 h
  obtain ⟨es, hes, hlen⟩ := exec_addsEvents hexec
  refine ⟨es, (boundary_ioTrace hbound).trans hes, hlen.trans (ioAccesses_le_two i), fun hne => ?_⟩
  refine opcodeOf_of_ioAccesses hdecode fun hnone => hne ?_
  exact List.eq_nil_of_length_eq_zero (Nat.le_zero.1 (hnone ▸ hlen))

end Sys2Proof.Machine

/-! ## The encoding: the decoder and the encoder undo each other -/

namespace Sys2Proof

/-! ### The operand fields of OP1 and OP2 -/

theorem ofBool_getLsbD {n : Nat} (x : BitVec n) (i : Nat) :
    BitVec.ofBool (x.getLsbD i) = x.extractLsb' i 1 := by
  apply BitVec.eq_of_getLsbD_eq
  intro j hj
  obtain rfl : j = 0 := by omega
  simp

/-- A field of zeros is that part of the word whose bits are clear. -/
theorem zero_eq_extractLsb' {n : Nat} {x : BitVec n} {start len : Nat}
    (h : ∀ i < len, x.getLsbD (start + i) = false) : 0#len = x.extractLsb' start len := by
  apply BitVec.eq_of_getLsbD_eq
  intro i hi
  simp [-BitVec.getLsbD_eq_getElem, h i hi]

theorem rollOf_eq_some {f : Field} {r : Roll} :
    rollOf f = some r ↔ encodeRoll r = f.extractLsb' 0 3 := by
  unfold rollOf
  generalize f.extractLsb' 0 3 = code
  revert code
  cases r <;> decide

/-- The reserved roll codes (30_encoding.md R91). -/
theorem rollOf_eq_none {f : Field} :
    rollOf f = none ↔
      f.extractLsb' 0 3 = 3#3 ∨ f.extractLsb' 0 3 = 4#3 ∨ f.extractLsb' 0 3 = 7#3 := by
  unfold rollOf
  generalize f.extractLsb' 0 3 = code
  revert code
  decide

/-- Each of the 160 selections of OP1 stands in the field that encodes it. -/
theorem op1BitsOf_encodeOp1Field (m : Op1Bits) : op1BitsOf (encodeOp1Field m) = some m := by
  obtain ⟨cla, cll, not, inc, cpl, roll⟩ := m
  cases roll <;> revert cla cll not inc cpl <;> decide

/-- Each of the 128 selections of OP2 stands in the field that encodes it. -/
theorem op2BitsOf_encodeOp2Field (m : Op2Bits) : op2BitsOf (encodeOp2Field m) = some m := by
  obtain ⟨cla2, cli, sti, g2, testN, testZ, testL⟩ := m
  revert cla2 cli sti g2 testN testZ testL
  decide

/-- The pieces of an accepted OP1 field, put together again, are the field. -/
theorem encodeOp1Field_of_op1BitsOf {f : Field} {m : Op1Bits} (h : op1BitsOf f = some m) :
    encodeOp1Field m = f := by
  unfold op1BitsOf at h
  split at h
  · cases h
  next hclear =>
  split at h
  · cases h
  next r hroll =>
  cases h
  have hzero : 0#2 = f.extractLsb' 3 2 := zero_eq_extractLsb' fun i hi => by
    interval_cases i <;> simp_all
  simp only [encodeOp1Field, rollOf_eq_some.1 hroll, hzero, ofBool_getLsbD,
    BitVec.extractLsb'_append_extractLsb'_eq_extractLsb']
  exact BitVec.extractLsb'_eq_self

/-- The pieces of an accepted OP2 field, put together again, are the field. -/
theorem encodeOp2Field_of_op2BitsOf {f : Field} {m : Op2Bits} (h : op2BitsOf f = some m) :
    encodeOp2Field m = f := by
  unfold op2BitsOf at h
  split at h
  · cases h
  next hclear =>
  cases h
  have hzero : 0#3 = f.extractLsb' 7 3 := zero_eq_extractLsb' fun i hi => by
    interval_cases i <;> simp_all
  simp only [encodeOp2Field, hzero, ofBool_getLsbD,
    BitVec.extractLsb'_append_extractLsb'_eq_extractLsb']
  exact BitVec.extractLsb'_eq_self

/-- The OP1 fields without a selection (30_encoding.md R91). -/
theorem op1BitsOf_eq_none {f : Field} :
    op1BitsOf f = none ↔
      f.getLsbD 4 = true ∨ f.getLsbD 3 = true ∨
        f.extractLsb' 0 3 = 3#3 ∨ f.extractLsb' 0 3 = 4#3 ∨ f.extractLsb' 0 3 = 7#3 := by
  rw [← rollOf_eq_none, ← or_assoc, ← Bool.or_eq_true]
  unfold op1BitsOf
  cases f.getLsbD 4 || f.getLsbD 3
  · cases rollOf f <;> simp
  · simp

/-- The OP2 fields without a selection (30_encoding.md R92). -/
theorem op2BitsOf_eq_none {f : Field} :
    op2BitsOf f = none ↔ f.getLsbD 9 = true ∨ f.getLsbD 8 = true ∨ f.getLsbD 7 = true := by
  rw [← or_assoc, ← Bool.or_eq_true, ← Bool.or_eq_true]
  unfold op2BitsOf
  cases f.getLsbD 9 || f.getLsbD 8 || f.getLsbD 7 <;> simp

/-! ### Every instruction in the row of its opcode -/

/-- The instruction spelled by the base mnemonic of its opcode (30_encoding.md R82): minor
operations and macros as the selection of OP1 or OP2 they stand for, RET and RTT as JMP, LI as LIA. -/
def Instr.base : Instr → Instr
  | .nop ign => .op1 ign {}
  | .cla ign => .op1 ign { cla := true }
  | .cll ign => .op1 ign { cll := true }
  | .not ign | .ing ign => .op1 ign { not := true }
  | .inc ign => .op1 ign { inc := true }
  | .cpl ign => .op1 ign { cpl := true }
  | .rbl ign => .op1 ign { roll := .rbl }
  | .rbr ign => .op1 ign { roll := .rbr }
  | .rnl ign => .op1 ign { roll := .rnl }
  | .rnr ign => .op1 ign { roll := .rnr }
  | .neg ign => .op1 ign { not := true, inc := true }
  | .sbl ign => .op1 ign { cll := true, roll := .rbl }
  | .sbr ign => .op1 ign { cll := true, roll := .rbr }
  | .snl ign => .op1 ign { cll := true, roll := .rnl }
  | .snr ign => .op1 ign { cll := true, roll := .rnr }
  | .nop2 ign => .op2 ign {}
  | .sna ign => .op2 ign { testN := true }
  | .sza ign => .op2 ign { testZ := true }
  | .ssl ign => .op2 ign { testL := true }
  | .skip ign => .op2 ign { g2 := true }
  | .snn ign => .op2 ign { g2 := true, testN := true }
  | .snz ign => .op2 ign { g2 := true, testZ := true }
  | .scl ign => .op2 ign { g2 := true, testL := true }
  | .cla2 ign => .op2 ign { cla2 := true }
  | .cli ign => .op2 ign { cli := true }
  | .sti ign => .op2 ign { sti := true }
  | .snp ign => .op2 ign { testN := true, testZ := true }
  | .spa ign => .op2 ign { g2 := true, testN := true, testZ := true }
  | .ret => .jmp true false 0x000#10
  | .rtt => .jmp true false 0x001#10
  | .li ign f => .lia ign false f
  | i => i

/-- The base spelling has the same word: the words Table 1 prints are those of R85, R86 and R89. -/
theorem encode_base (i : Instr) : encode i.base = encode i := by
  cases i <;> rfl

/-- The base spelling has the same canonical form. -/
theorem canonical_base (i : Instr) : i.base.canonical = i.canonical := by
  cases i <;> rfl

theorem base_nameJmp (ind rel : Bool) (f : Field) : (nameJmp ind rel f).base = .jmp ind rel f := by
  unfold nameJmp
  split_ifs with hret hrtt
  · simp_all [Instr.base]
  · simp_all [Instr.base]
  · rfl

theorem base_nameLia (ign rel : Bool) (f : Field) : (nameLia ign rel f).base = .lia ign rel f := by
  cases rel <;> rfl

theorem base_nameOp1 (ign : BitVec 2) (m : Op1Bits) : (nameOp1 ign m).base = .op1 ign m := by
  unfold nameOp1
  split <;> rfl

theorem base_nameOp2 (ign : BitVec 2) (m : Op2Bits) : (nameOp2 ign m).base = .op2 ign m := by
  unfold nameOp2
  split <;> rfl

/-- Naming a word by its own constructor does not change its base spelling. -/
theorem base_canonical (i : Instr) : i.canonical.base = i.base := by
  cases i with
  | jmp ind rel f => exact base_nameJmp ind rel f
  | lia ign rel f => exact base_nameLia ign rel f
  | op1 ign m => exact base_nameOp1 ign m
  | op2 ign m => exact base_nameOp2 ign m
  | _ => rfl

theorem encode_canonical (i : Instr) : encode i.canonical = encode i := by
  rw [← encode_base, base_canonical, encode_base]

theorem canonical_canonical (i : Instr) : i.canonical.canonical = i.canonical := by
  rw [← canonical_base i.canonical, base_canonical, canonical_base]

/-! ### Well-formed is canonical (log 21) -/

theorem nameOp1_eq_op1 {ign : BitVec 2} {m : Op1Bits} :
    nameOp1 ign m = .op1 ign m ↔ op1Named.contains m = false := by
  unfold nameOp1
  split
  case h_16 => simp_all [op1Named]
  all_goals exact iff_of_false (by simp) (by decide)

theorem nameOp2_eq_op2 {ign : BitVec 2} {m : Op2Bits} :
    nameOp2 ign m = .op2 ign m ↔ op2Named.contains m = false := by
  unfold nameOp2
  split
  case h_14 => simp_all [op2Named]
  all_goals exact iff_of_false (by simp) (by decide)

theorem nameJmp_eq_jmp {ind rel : Bool} {f : Field} :
    nameJmp ind rel f = .jmp ind rel f ↔ (ind && !rel && (f == 0#10 || f == 1#10)) = false := by
  unfold nameJmp
  split_ifs with hret hrtt
  · simp_all
  · simp_all
  · cases ind <;> cases rel <;> simp_all

theorem wellFormed_iff_canonical {i : Instr} : i.wellFormed = true ↔ i.canonical = i := by
  cases i with
  | jmp ind rel f => exact (Bool.not_eq_true' _).to_iff.trans nameJmp_eq_jmp.symm
  | op1 ign m => exact (Bool.not_eq_true' _).to_iff.trans nameOp1_eq_op1.symm
  | op2 ign m => exact (Bool.not_eq_true' _).to_iff.trans nameOp2_eq_op2.symm
  | lia ign rel f => cases rel <;> simp [Instr.wellFormed, Instr.canonical, nameLia]
  | ing ign => simp [Instr.wellFormed, Instr.canonical]
  | _ => exact iff_of_true rfl rfl

theorem canonical_wellFormed (i : Instr) : i.canonical.wellFormed = true :=
  wellFormed_iff_canonical.2 (canonical_canonical i)

/-! ### The decoder on each opcode -/

section
variable {w : Word}

theorem decode_of_opcodeOf_op1 (h : opcodeOf w = 0xC#4) : decode w = decodeOp1 w := by
  simp [decode, h]

theorem decode_of_opcodeOf_op2 (h : opcodeOf w = 0xD#4) : decode w = decodeOp2 w := by
  simp [decode, h]

theorem decode_of_opcodeOf_reservedE (h : opcodeOf w = 0xE#4) :
    decode w = .ok (.reservedE (w.extractLsb' 0 12)) := by
  simp [decode, h]

theorem decode_of_opcodeOf_lia (h : opcodeOf w = 0xF#4) :
    decode w = .ok (nameLia (iBitOf w) (rBitOf w) (fieldOf w)) := by
  simp [decode, h]

end

/-! ### Decode after encode -/

theorem decode_encode_op1 (ign : BitVec 2) (m : Op1Bits) :
    decode (encode (.op1 ign m)) = .ok (nameOp1 ign m) := by
  simp [encode, encodeOp1, decode_of_opcodeOf_op1, decodeOp1, op1BitsOf_encodeOp1Field]

theorem decode_encode_op2 (ign : BitVec 2) (m : Op2Bits) :
    decode (encode (.op2 ign m)) = .ok (nameOp2 ign m) := by
  simp [encode, encodeOp2, decode_of_opcodeOf_op2, decodeOp2, op2BitsOf_encodeOp2Field]

theorem decode_encode_reservedE (bits : BitVec 12) :
    decode (encode (.reservedE bits)) = .ok (.reservedE bits) := by
  have hop : opcodeOf (encode (.reservedE bits)) = 0xE#4 := BitVec.extractLsb'_append_eq_left
  have hbits : (encode (.reservedE bits)).extractLsb' 0 12 = bits :=
    BitVec.extractLsb'_append_eq_right
  rw [decode_of_opcodeOf_reservedE hop, hbits]

/-- An instruction's word decodes to its canonical form. By its base spelling it is enough to look at
one instruction for each opcode. -/
theorem decode_encode (i : Instr) : decode (encode i) = .ok i.canonical := by
  rw [← encode_base, ← canonical_base]
  cases i with
  | trap ind rel f | iot ind rel f | load ind rel f | store ind rel f | inp ind rel f
  | out ind rel f | jsr ind rel f | add ind rel f | and ind rel f | or ind rel f | xor ind rel f
  | jmp ind rel f | ret | rtt | lia ign rel f | li ign f =>
    simp [Instr.base, encode, decode, Instr.canonical]
  | reservedE bits => exact decode_encode_reservedE bits
  | op1 ign m | nop ign | cla ign | cll ign | not ign | inc ign | cpl ign
  | rbl ign | rbr ign | rnl ign | rnr ign
  | neg ign | ing ign | sbl ign | sbr ign | snl ign | snr ign => exact decode_encode_op1 ign _
  | op2 ign m | nop2 ign | sna ign | sza ign | ssl ign | skip ign | snn ign | snz ign | scl ign
  | cla2 ign | cli ign | sti ign | snp ign | spa ign => exact decode_encode_op2 ign _

/-- Settles O1: the word decodes to the canonical form, and a well-formed instruction is its own. -/
theorem decodeOfEncodeIsTheInstruction : Obligations.DecodeOfEncodeIsTheInstruction := by
  intro i hwf
  rw [decode_encode, wellFormed_iff_canonical.1 hwf]

/-! ### Encode after decode -/

section
variable {w : Word} {i : Instr}

theorem encodeWord_of_opcodeOf {o : BitVec 4} (h : (opcodeOf w).toNat = o.toNat) :
    encodeWord o (iBitOf w) (rBitOf w) (fieldOf w) = w := by
  rw [← BitVec.eq_of_toNat_eq h, encodeWord_fields]

theorem encode_reservedE_of_opcodeOf (h : opcodeOf w = 0xE#4) :
    encode (.reservedE (w.extractLsb' 0 12)) = w := by
  rw [encode, ← h, opcodeOf]
  exact (BitVec.extractLsb'_append_extractLsb'_eq_extractLsb' rfl).trans
    BitVec.extractLsb'_eq_self

theorem encode_of_decodeOp1 (hop : opcodeOf w = 0xC#4) (h : decodeOp1 w = .ok i) : encode i = w := by
  unfold decodeOp1 at h
  split at h
  · cases h
  next m hm =>
  cases h
  calc encode (nameOp1 (ignoredOf w) m)
    _ = encode (.op1 (ignoredOf w) m) := encode_canonical (.op1 (ignoredOf w) m)
    _ = 0xC#4 ++ ignoredOf w ++ fieldOf w := by
      rw [encode, encodeOp1, encodeOp1Field_of_op1BitsOf hm]
    _ = w := by rw [← hop, append_fields]

theorem encode_of_decodeOp2 (hop : opcodeOf w = 0xD#4) (h : decodeOp2 w = .ok i) : encode i = w := by
  unfold decodeOp2 at h
  split at h
  · cases h
  next m hm =>
  cases h
  calc encode (nameOp2 (ignoredOf w) m)
    _ = encode (.op2 (ignoredOf w) m) := encode_canonical (.op2 (ignoredOf w) m)
    _ = 0xD#4 ++ ignoredOf w ++ fieldOf w := by
      rw [encode, encodeOp2, encodeOp2Field_of_op2BitsOf hm]
    _ = w := by rw [← hop, append_fields]

/-- The decoder loses no bit of a word. -/
theorem encode_of_decode (h : decode w = .ok i) : encode i = w := by
  unfold decode at h
  split at h
  case h_7 hop =>
    cases h
    exact (encode_canonical (.jmp ..)).trans (encodeWord_of_opcodeOf hop)
  case h_13 hop => exact encode_of_decodeOp1 (BitVec.eq_of_toNat_eq hop) h
  case h_14 hop => exact encode_of_decodeOp2 (BitVec.eq_of_toNat_eq hop) h
  case h_15 hop =>
    cases h
    exact encode_reservedE_of_opcodeOf (BitVec.eq_of_toNat_eq hop)
  case h_16 =>
    cases h
    have hop : (opcodeOf w).toNat = (0xF#4).toNat := by
      have hlt := (opcodeOf w).isLt
      simp only [imp_false] at *
      rw [BitVec.toNat_ofNat]
      omega
    exact (encode_canonical (.lia ..)).trans (encodeWord_of_opcodeOf hop)
  all_goals
    cases h
    exact encodeWord_of_opcodeOf ‹_›

theorem canonical_of_decode (h : decode w = .ok i) : i.canonical = i := by
  have hdecode := decode_encode i
  rw [encode_of_decode h, h] at hdecode
  exact (Except.ok.inj hdecode).symm

end

/-- Settles O2: the word's own decoding is the canonical form, so it is well-formed. -/
theorem encodeOfDecodeIsTheWord : Obligations.EncodeOfDecodeIsTheWord := fun _ _ h =>
  ⟨encode_of_decode h, wellFormed_iff_canonical.2 (canonical_of_decode h)⟩

/-! ### Second names -/

open Machine

/-- The base spelling has the same meaning. -/
theorem exec_base (i : Instr) : exec i.base = exec i := by
  cases i <;> rfl

theorem exec_canonical (i : Instr) : exec i.canonical = exec i := by
  rw [← exec_base, base_canonical, exec_base]

/-- Settles O3: an instruction and its canonical form have the same base spelling. -/
theorem secondNamesDecodeToTheSameMeaning : Obligations.SecondNamesDecodeToTheSameMeaning := fun i =>
  ⟨decode_encode i, canonical_wellFormed i, congrFun (exec_canonical i)⟩

end Sys2Proof

/-! ## The encoding: reserved words, ignored bits, and the stops without an instruction -/

namespace Sys2Proof.Machine

/-! ### The words the decoder rejects -/

section
variable {w : Word}

theorem decodeOp1_eq_error {e : DecodeError} :
    decodeOp1 w = .error e ↔ op1BitsOf (fieldOf w) = none ∧ e = .reservedOp1 := by
  unfold decodeOp1
  cases op1BitsOf (fieldOf w) <;> simp [eq_comm]

theorem decodeOp2_eq_error {e : DecodeError} :
    decodeOp2 w = .error e ↔ op2BitsOf (fieldOf w) = none ∧ e = .reservedOp2 := by
  unfold decodeOp2
  cases op2BitsOf (fieldOf w) <;> simp [eq_comm]

/-- Only words of OP1 and OP2 can be rejected. -/
theorem opcodeOf_of_decode_eq_error {e : DecodeError} (h : decode w = .error e) :
    opcodeOf w = 0xC#4 ∨ opcodeOf w = 0xD#4 := by
  unfold decode at h
  split at h
  case h_13 hop => exact .inl (BitVec.eq_of_toNat_eq hop)
  case h_14 hop => exact .inr (BitVec.eq_of_toNat_eq hop)
  all_goals cases h

theorem decode_eq_error {e : DecodeError} :
    decode w = .error e ↔
      (opcodeOf w = 0xC#4 ∧ op1BitsOf (fieldOf w) = none ∧ e = .reservedOp1) ∨
      (opcodeOf w = 0xD#4 ∧ op2BitsOf (fieldOf w) = none ∧ e = .reservedOp2) := by
  constructor
  · intro h
    obtain hop | hop := opcodeOf_of_decode_eq_error h
    · exact .inl ⟨hop, decodeOp1_eq_error.1 (decode_of_opcodeOf_op1 hop ▸ h)⟩
    · exact .inr ⟨hop, decodeOp2_eq_error.1 (decode_of_opcodeOf_op2 hop ▸ h)⟩
  · rintro (⟨hop, h⟩ | ⟨hop, h⟩)
    · exact (decode_of_opcodeOf_op1 hop).trans (decodeOp1_eq_error.2 h)
    · exact (decode_of_opcodeOf_op2 hop).trans (decodeOp2_eq_error.2 h)

theorem op1BitsOf_of_decode {i : Instr} (hop : opcodeOf w = 0xC#4) (h : decode w = .ok i) :
    ∃ m, op1BitsOf (fieldOf w) = some m :=
  Option.ne_none_iff_exists'.1 fun hnone => by
    simp [decode_eq_error.2 (.inl ⟨hop, hnone, rfl⟩)] at h

theorem op2BitsOf_of_decode {i : Instr} (hop : opcodeOf w = 0xD#4) (h : decode w = .ok i) :
    ∃ m, op2BitsOf (fieldOf w) = some m :=
  Option.ne_none_iff_exists'.1 fun hnone => by
    simp [decode_eq_error.2 (.inr ⟨hop, hnone, rfl⟩)] at h

theorem getLsbD_fieldOf {i : Nat} (h : i < 10) : (fieldOf w).getLsbD i = w.getLsbD i := by
  rw [fieldOf, BitVec.getLsbD_extractLsb', Nat.zero_add]
  simp [h]

theorem extractLsb'_fieldOf : (fieldOf w).extractLsb' 0 3 = w.extractLsb' 0 3 := by
  apply BitVec.eq_of_getLsbD_eq
  intro i hi
  simp only [BitVec.getLsbD_extractLsb', Nat.zero_add, getLsbD_fieldOf (show i < 10 by omega)]

/-- The reserved OP1 patterns on the bits of the word (30_encoding.md R91). -/
theorem op1BitsOf_fieldOf_eq_none :
    op1BitsOf (fieldOf w) = none ↔
      w.getLsbD 4 = true ∨ w.getLsbD 3 = true ∨
        w.extractLsb' 0 3 = 3#3 ∨ w.extractLsb' 0 3 = 4#3 ∨ w.extractLsb' 0 3 = 7#3 := by
  rw [op1BitsOf_eq_none, extractLsb'_fieldOf, getLsbD_fieldOf (by decide),
    getLsbD_fieldOf (by decide)]

/-- The reserved OP2 patterns on the bits of the word (30_encoding.md R92). -/
theorem op2BitsOf_fieldOf_eq_none :
    op2BitsOf (fieldOf w) = none ↔
      w.getLsbD 9 = true ∨ w.getLsbD 8 = true ∨ w.getLsbD 7 = true := by
  rw [op2BitsOf_eq_none, getLsbD_fieldOf (by decide), getLsbD_fieldOf (by decide),
    getLsbD_fieldOf (by decide)]

end

/-! ### Refusals -/

theorem runOp1_eq_refused {ign : BitVec 2} {m : Op1Bits} {s : State} {e : Refusal} :
    runOp1 ign m s = .refused e ↔ irBitsRefused ign s = true ∧ e = .opIrBits := by
  unfold runOp1
  cases irBitsRefused ign s <;> simp [eq_comm]

theorem runOp2_eq_refused {ign : BitVec 2} {m : Op2Bits} {s : State} {e : Refusal} :
    runOp2 ign m s = .refused e ↔ irBitsRefused ign s = true ∧ e = .opIrBits := by
  unfold runOp2
  cases irBitsRefused ign s <;> simp [eq_comm]

theorem ExecForm.refused {run : State → Result} (hrun : ExecForm run) {s : State} {e : Refusal}
    (h : run s = .refused e) : e = .opIrBits ∨ e = .unassignedOpcode := by
  cases hrun with
  | op1 ign m => exact .inl (runOp1_eq_refused.1 h).2
  | op2 ign m => exact .inl (runOp2_eq_refused.1 h).2
  | immediate rel f => cases h
  | unassigned =>
    cases h
    exact .inr rfl
  | combine | jump | call | inp | out | iot | load | store =>
    exact absurd h (settle_ne_refused _ e)

/-- The meaning of a decoded instruction refuses by two names only. -/
theorem exec_refused {i : Instr} {s : State} {e : Refusal} (h : exec i s = .refused e) :
    e = .opIrBits ∨ e = .unassignedOpcode :=
  (exec_form i).refused h

theorem runWord_of_decode_error {w : Word} {e : DecodeError} (h : decode w = .error e) (s : State) :
    runWord w s = .refused (refusalOf e) := by
  rw [runWord, h]

/-- A word is refused by a decoder error's name exactly if the decoder rejects it so. -/
theorem runWord_eq_refused_iff {w : Word} {s : State} {e : DecodeError} :
    runWord w s = .refused (refusalOf e) ↔ decode w = .error e := by
  refine ⟨fun h => ?_, fun h => runWord_of_decode_error h s⟩
  cases hdecode : decode w with
  | error e' =>
    rw [runWord_of_decode_error hdecode] at h
    cases e <;> cases e' <;> simp_all [refusalOf]
  | ok i =>
    rw [runWord_of_decode hdecode] at h
    have hname := exec_refused h
    cases e <;> simp [refusalOf] at hname

/-- Settles O36: RESERVED_E's meaning looks at nothing. -/
theorem unassignedOpcodeIsRefused : Obligations.UnassignedOpcodeIsRefused := fun _ _ => rfl

/-- Settles O5: the decoder rejects the reserved patterns by name, and no meaning uses these names. -/
theorem exactlyTheReservedWordsAreRefused : Obligations.ExactlyTheReservedWordsAreRefused := by
  intro w s
  refine ⟨fun hop => ?_, ?_, ?_, fun ⟨e, h⟩ => opcodeOf_of_decode_eq_error h⟩
  · rw [runWord_of_decode (decode_of_opcodeOf_reservedE hop)]
    exact unassignedOpcodeIsRefused _ s
  · rw [← op1BitsOf_fieldOf_eq_none]
    exact (runWord_eq_refused_iff (e := .reservedOp1)).trans (by simp [decode_eq_error])
  · rw [← op2BitsOf_fieldOf_eq_none]
    exact (runWord_eq_refused_iff (e := .reservedOp2)).trans (by simp [decode_eq_error])

/-! ### Ignored bits -/

/-- What an OP1 word runs (30_encoding.md R97): the selection in its operand, if it has one. -/
theorem runWord_op1 {w : Word} (hop : opcodeOf w = 0xC#4) (s : State) :
    runWord w s =
      (op1BitsOf (fieldOf w)).elim (.refused .reservedOp1) fun m => runOp1 (ignoredOf w) m s := by
  cases hm : op1BitsOf (fieldOf w) with
  | none => exact runWord_of_decode_error (decode_eq_error.2 (.inl ⟨hop, hm, rfl⟩)) s
  | some m =>
    have hdecode : decode w = .ok (nameOp1 (ignoredOf w) m) := by
      rw [decode_of_opcodeOf_op1 hop, decodeOp1, hm]
    rw [runWord_of_decode hdecode]
    exact congrFun (exec_canonical (.op1 (ignoredOf w) m)) s

/-- What an OP2 word runs (30_encoding.md R97): the selection in its operand, if it has one. -/
theorem runWord_op2 {w : Word} (hop : opcodeOf w = 0xD#4) (s : State) :
    runWord w s =
      (op2BitsOf (fieldOf w)).elim (.refused .reservedOp2) fun m => runOp2 (ignoredOf w) m s := by
  cases hm : op2BitsOf (fieldOf w) with
  | none => exact runWord_of_decode_error (decode_eq_error.2 (.inr ⟨hop, hm, rfl⟩)) s
  | some m =>
    have hdecode : decode w = .ok (nameOp2 (ignoredOf w) m) := by
      rw [decode_of_opcodeOf_op2 hop, decodeOp2, hm]
    rw [runWord_of_decode hdecode]
    exact congrFun (exec_canonical (.op2 (ignoredOf w) m)) s

/-- What a LIA word runs: no part of it is bit 11. -/
theorem runWord_lia {w : Word} (hop : opcodeOf w = 0xF#4) (s : State) :
    runWord w s = .next (loadImmediate (rBitOf w) (fieldOf w) s) := by
  rw [runWord_of_decode (decode_of_opcodeOf_lia hop)]
  exact congrFun (exec_canonical (.lia (iBitOf w) (rBitOf w) (fieldOf w))) s

/-- A mask that is all ones over the opcode keeps it. -/
theorem opcodeOf_and {w mask : Word} (h : opcodeOf mask = BitVec.allOnes 4) :
    opcodeOf (w &&& mask) = opcodeOf w := by
  unfold opcodeOf at *
  rw [BitVec.extractLsb'_and, h, BitVec.and_allOnes]

/-- A mask that is all ones over the operand field keeps it. -/
theorem fieldOf_and {w mask : Word} (h : fieldOf mask = BitVec.allOnes 10) :
    fieldOf (w &&& mask) = fieldOf w := by
  unfold fieldOf at *
  rw [BitVec.extractLsb'_and, h, BitVec.and_allOnes]

/-- A mask with the R bit set keeps it. -/
theorem rBitOf_and {w mask : Word} (h : rBitOf mask = true) : rBitOf (w &&& mask) = rBitOf w := by
  unfold rBitOf at *
  rw [BitVec.getLsbD_and, h, Bool.and_true]

theorem irBitsRefused_of_ignore {s : State} (h : s.cfg.opIrBits = .ignore) (ign : BitVec 2) :
    irBitsRefused ign s = false := by
  simp [irBitsRefused, h]

theorem irBitsRefused_of_refuse {s : State} {ign : BitVec 2} (h : s.cfg.opIrBits = .refuse)
    (hign : ign ≠ 0#2) : irBitsRefused ign s = true := by
  simp [irBitsRefused, h, hign]

theorem runOp1_of_ignore {s : State} (h : s.cfg.opIrBits = .ignore) (ign : BitVec 2) (m : Op1Bits) :
    runOp1 ign m s = .next (op1State m s) :=
  runOp1_eq_next.2 ⟨irBitsRefused_of_ignore h ign, rfl⟩

theorem runOp2_of_ignore {s : State} (h : s.cfg.opIrBits = .ignore) (ign : BitVec 2) (m : Op2Bits) :
    runOp2 ign m s = .next (op2State m s) :=
  runOp2_eq_next.2 ⟨irBitsRefused_of_ignore h ign, rfl⟩

/-- Settles O6: clearing bits 11 and 10 keeps opcode and operand, and the ignored bits are looked at
only to refuse them. -/
theorem indirectionBitsOfOp1AndOp2 : Obligations.IndirectionBitsOfOp1AndOp2 := by
  intro w s hop
  have hfield : fieldOf (w &&& 0xF3FF#16) = fieldOf w := fieldOf_and (by decide)
  have hopcode : opcodeOf (w &&& 0xF3FF#16) = opcodeOf w := opcodeOf_and (by decide)
  obtain hop | hop := hop
  · refine ⟨fun hcfg => ?_, fun hcfg hign i hdecode => ?_⟩
    · simp only [runWord_op1 hop, runWord_op1 (hopcode.trans hop), hfield, runOp1_of_ignore hcfg]
    · obtain ⟨m, hm⟩ := op1BitsOf_of_decode hop hdecode
      rw [runWord_op1 hop, hm]
      exact runOp1_eq_refused.2 ⟨irBitsRefused_of_refuse hcfg hign, rfl⟩
  · refine ⟨fun hcfg => ?_, fun hcfg hign i hdecode => ?_⟩
    · simp only [runWord_op2 hop, runWord_op2 (hopcode.trans hop), hfield, runOp2_of_ignore hcfg]
    · obtain ⟨m, hm⟩ := op2BitsOf_of_decode hop hdecode
      rw [runWord_op2 hop, hm]
      exact runOp2_eq_refused.2 ⟨irBitsRefused_of_refuse hcfg hign, rfl⟩

/-- Settles O7: a LIA word runs by its opcode, its R bit and its operand. -/
theorem liaIgnoresTheIndirectionBit : Obligations.LiaIgnoresTheIndirectionBit := by
  intro w s hop
  have hopcode : opcodeOf (w &&& 0xF7FF#16) = opcodeOf w := opcodeOf_and (by decide)
  rw [runWord_lia hop, runWord_lia (hopcode.trans hop), rBitOf_and (by decide),
    fieldOf_and (by decide)]

/-! ### Words of the spec, and the stops of a step -/

/-- Settles O4: each word is the encoding of its instruction. -/
theorem wordsOfTheSpecDecode : Obligations.WordsOfTheSpecDecode :=
  ⟨decode_encode (.load true true 0x09A#10), decode_encode (.store false true 0x010#10),
    decode_encode (.iot false false 0x005#10), decode_encode (.trap true false 0x040#10),
    decode_encode (.add false false 0x010#10),
    decode_encode (.op1 0#2 ⟨true, true, true, true, true, .rbl⟩),
    decode_encode (.neg 0#2),
    decode_encode (.op2 0#2 ⟨true, true, false, true, false, false, false⟩),
    decode_encode (.spa 0#2), decode_encode (.lia true true 0x042#10),
    decode_encode (.li false 0x350#10), decode_encode .ret⟩

theorem fetch_of_not_readable {s : State} (h : readable s.pc s = false) :
    fetch s = .error (.absentMemory s.pc) := by
  rw [fetch, memRead_of_not_readable h]

/-- Settles O38: the fetch faults, or it leaves a word in IR that the decoder rejects. -/
theorem stepStopsWithoutAnInstruction : Obligations.StepStopsWithoutAnInstruction := by
  intro s
  refine ⟨fun hread => ?_, fun e hread hdecode => ?_⟩
  · rw [step, fetch_of_not_readable hread]
  · rw [step, fetch_of_readable hread]
    simp only [runWord_of_decode_error hdecode]

end Sys2Proof.Machine

/-! ## The addressing modes -/

namespace Sys2Proof.Machine

/-! ### Operand assembly -/

/-- The page mask holds a word's upper six bits. -/
theorem getLsbD_pageMask : ∀ i < 16, (0xFC00#16).getLsbD i = decide (10 ≤ i) := by decide

/-- Six page bits above an operand are the word under the page mask, joined with the operand. -/
theorem extractLsb'_append_field (x : Word) (f : Field) :
    (x.extractLsb' 10 6 ++ f : Word) = (x &&& 0xFC00#16) ||| f.setWidth 16 := by
  apply BitVec.eq_of_getLsbD_eq
  intro i hi
  rw [BitVec.getLsbD_append (x := x.extractLsb' 10 6) (y := f), BitVec.getLsbD_or,
    BitVec.getLsbD_and, getLsbD_pageMask i hi, BitVec.getLsbD_setWidth]
  by_cases h : i < 10
  · simp [h, hi]
  · have hpage : i - 10 < 6 := by omega
    have hpos : 10 + (i - 10) = i := by omega
    simp [h, hpage, hpos, Nat.le_of_not_lt h]

section
variable {f : Field} {s : State}

theorem opnd_pageZero : opnd false f s = f.setWidth 16 :=
  (BitVec.setWidth_eq_append (x := f) (w := 16) (by decide)).symm

theorem opnd_of_instructionAddress (h : s.cfg.pageSource = .instructionAddress) :
    opnd true f s = (instructionAddress s &&& 0xFC00#16) ||| f.setWidth 16 := by
  simp only [opnd, pageOf, h, extractLsb'_append_field]

theorem opnd_of_incrementedPc (h : s.cfg.pageSource = .incrementedPc) :
    opnd true f s = (s.pc &&& 0xFC00#16) ||| f.setWidth 16 := by
  simp only [opnd, pageOf, h, extractLsb'_append_field]

end

/-- Settles O8: the page bits are read at the address that `PAGE_SOURCE` names. -/
theorem operandAssembly : Obligations.OperandAssembly := fun _ _ =>
  ⟨opnd_pageZero, opnd_of_instructionAddress, opnd_of_incrementedPc⟩

/-! ### The effective-address procedure -/

theorem isAutoindex_iff {p : Word} : isAutoindex p = true ↔ 0x80 ≤ p.toNat ∧ p.toNat ≤ 0xFF := by
  simp [isAutoindex, BitVec.le_def]

theorem effAddr_of_not_readable {rel : Bool} {f : Field} {s : State}
    (h : readable (opnd rel f s) s = false) :
    effAddr true rel f s = .error (.absentMemory (opnd rel f s)) := by
  rw [effAddr, memRead_of_not_readable h]

/-- The pending write-back of an indirect reference, by the bounds of the autoindex words
(40_addressing_modes.md R116). -/
theorem modeEA_indirect_wb (rel : Bool) (f : Field) (s : State) :
    (modeEA true rel f s).wb =
      if 0x80 ≤ (opnd rel f s).toNat ∧ (opnd rel f s).toNat ≤ 0xFF then
        some (opnd rel f s, s.mem.word (opnd rel f s) + 1#16) else none := by
  simp only [modeEA, autoindexed, effective, Bool.true_and, isAutoindex_iff]

/-- Settles O9: a direct reference and a readable pointer leave what the mode names, and an absent
pointer stops the procedure. -/
theorem effectiveAddressProcedure : Obligations.EffectiveAddressProcedure := by
  intro rel f s
  refine ⟨rfl, fun hread => ?_, effAddr_of_not_readable⟩
  have hmode : effAddr true rel f s = .ok (modeEA true rel f s, afterMode true rel f s) :=
    effAddr_of_readable fun _ => hread
  rw [hmode, ← modeEA_indirect_wb]
  rfl

end Sys2Proof.Machine

/-! ## The whole next state of a memory-reference instruction -/

namespace Sys2Proof.Safety

open Sys2Proof.Machine

section
variable {ind rel : Bool} {f : Field} {s u : State}

/-- Where the effective address is put out, MAR holds the operand in every mode: it is the effective
address of a direct reference and the pointer's address of an indirect one (40_addressing_modes.md
R119, log 3). -/
theorem putOut_modeEA :
    putOut (modeEA ind rel f s) (afterMode ind rel f s) =
      { s with mar := opnd rel f s, dr := drAfter ind rel f s } := by
  cases ind <;> rfl

/-- `Finish` where the pointer word takes its write-back (40_addressing_modes.md R117). -/
theorem finish_modeEA_of_accepts (hcfg : u.cfg = s.cfg)
    (hback : autoindexed ind rel f s = true → accepts (opnd rel f s) s = true) :
    finish (modeEA ind rel f s) u = .ok { u with
      mar := if autoindexed ind rel f s then opnd rel f s else u.mar
      mem := afterWriteBack ind rel f s u.mem } := by
  rw [finish_modeEA_eq_ok]
  cases hauto : autoindexed ind rel f s with
  | false => exact .inl ⟨rfl, by simp [afterWriteBack, hauto]⟩
  | true =>
    have hacc : accepts (opnd rel f s) u = true := (accepts_congr _ hcfg).trans (hback hauto)
    exact .inr ⟨rfl, hacc, by simp [afterWriteBack, hauto, hcfg]⟩

/-- A memory-reference instruction whose own accesses go on to `u`: the write-back is all that
follows. -/
theorem memoryReference_next {act : EA → State → Except Fault State}
    (haddr : addressable ind rel f s)
    (hown : act (modeEA ind rel f s) (afterMode ind rel f s) = .ok u) (hcfg : u.cfg = s.cfg) :
    memoryReference ind rel f act s = .next { u with
      mar := if autoindexed ind rel f s then opnd rel f s else u.mar
      mem := afterWriteBack ind rel f s u.mem } := by
  obtain ⟨hptr, hback⟩ := haddr
  exact memoryReference_eq_next_mode.2 ⟨hptr, u, hown, finish_modeEA_of_accepts hcfg hback⟩

/-- As `memoryReference_next`, where the own accesses leave the operand in MAR: the write-back puts
the same address out again. -/
theorem memoryReference_next_of_mar {act : EA → State → Except Fault State}
    (haddr : addressable ind rel f s)
    (hown : act (modeEA ind rel f s) (afterMode ind rel f s) = .ok u) (hcfg : u.cfg = s.cfg)
    (hmar : u.mar = opnd rel f s) :
    memoryReference ind rel f act s = .next { u with mem := afterWriteBack ind rel f s u.mem } := by
  rw [memoryReference_next haddr hown hcfg, ← hmar, ite_self]

/-- The own read of an instruction, from the state the addressing mode leaves. -/
theorem readDatum_modeEA (hread : readable (effective ind rel f s) s = true) :
    readDatum (modeEA ind rel f s) (afterMode ind rel f s) =
      .ok (s.mem.word (effective ind rel f s),
        { s with mar := opnd rel f s, dr := drAfter ind rel f s }) :=
  readDatum_eq_ok.2 ⟨hread, rfl, putOut_modeEA.symm⟩

/-- The own write of an instruction, from the state the addressing mode leaves. -/
theorem writeDatum_modeEA (v : Word) (hacc : accepts (effective ind rel f s) s = true) :
    writeDatum (modeEA ind rel f s) v (afterMode ind rel f s) = .ok { s with
      mar := opnd rel f s
      dr := drAfter ind rel f s
      mem := pokeMem s.cfg (effective ind rel f s) v s.mem } :=
  writeDatum_eq_ok.2 ⟨hacc, by rw [putOut_modeEA]; rfl⟩

/-- An instruction that reads a datum and combines it with A and L by `op`. -/
theorem combine_next {op : Word → State → State} (hcfg : ∀ m t, (op m t).cfg = t.cfg)
    (hmar : ∀ m t, (op m t).mar = t.mar) (haddr : addressable ind rel f s)
    (hread : readable (effective ind rel f s) s = true) :
    combine op ind rel f s =
      let t := op (s.mem.word (effective ind rel f s))
        { s with mar := opnd rel f s, dr := drAfter ind rel f s }
      .next { t with mem := afterWriteBack ind rel f s t.mem } :=
  memoryReference_next_of_mar haddr (by simp only [readDatum_modeEA hread]) (hcfg ..) (hmar ..)

end

/-- Settles O10: LOAD combines by taking the datum, which is read before the write-back. -/
theorem loadResult : Obligations.LoadResult := fun _ _ _ _ haddr hread =>
  combine_next (op := fun m t => { t with a := m }) (fun _ _ => rfl) (fun _ _ => rfl) haddr hread

/-- Settles O11: the own write of STORE, then the write-back over what it stored. -/
theorem storeResult : Obligations.StoreResult := fun _ _ _ s haddr hacc =>
  memoryReference_next_of_mar (act := fun ea t => writeDatum ea t.a t) haddr
    (writeDatum_modeEA s.a hacc) rfl rfl

end Sys2Proof.Safety

/-! ## The whole next state of an I/O instruction -/

namespace Sys2Proof.Safety

open Sys2Proof.Machine

/-- A settled answer is what the device gives (U11, log 11). -/
theorem ioAnswer_of_settled {s : State} {v : Word} {vs : List Word} (h : s.ioAnswers = v :: vs)
    (x : Word) : ioAnswer x s = v := by
  rw [ioAnswer, h]

/-- A write and then a read of `x`: both events stand in the trace, in this order (20_memory.md R55). -/
theorem ioReadToA_ioWriteFromA (x : Word) (s : State) :
    ioReadToA x (ioWriteFromA x s) = { s with
      a := ioAnswer x (ioWriteFromA x s)
      ioAnswers := s.ioAnswers.tail
      ioTrace := s.ioTrace ++ [.write x s.a, .read x (ioAnswer x (ioWriteFromA x s))] } := by
  rw [ioReadToA, ioWriteFromA_ioTrace, List.append_assoc]
  rfl

/-- An instruction whose own accesses are I/O, described by `op`, at an address formed as a memory
address is (40_addressing_modes.md R121): only the pointer accesses need a condition. -/
theorem ioReference_next {op : Word → State → State} (hcfg : ∀ x t, (op x t).cfg = t.cfg)
    (hmar : ∀ x t, (op x t).mar = t.mar) {ind rel : Bool} {f : Field} {s : State}
    (haddr : addressable ind rel f s) :
    memoryReference ind rel f (fun ea t => .ok (op ea.addr (putOut ea t))) s =
      let t := op (effective ind rel f s)
        { s with mar := opnd rel f s, dr := drAfter ind rel f s }
      .next { t with mem := afterWriteBack ind rel f s t.mem } :=
  have hown := congrArg (fun t => Except.ok (ε := Fault) (op (effective ind rel f s) t)) putOut_modeEA
  memoryReference_next_of_mar haddr hown (hcfg ..) (hmar ..)

/-- Settles O14: the answer depends on the answers, the trace and the tick, which the addressing mode
leaves as they were. -/
theorem inResult : Obligations.InResult := fun ind rel f s haddr =>
  ⟨ioAnswer (effective ind rel f s) s, fun _ _ hsettled => ioAnswer_of_settled hsettled _,
    ioReference_next (op := ioReadToA) ioReadToA_cfg ioReadToA_mar haddr⟩

/-- Settles O15: the one write event of A, then the write-back. -/
theorem outResult : Obligations.OutResult := fun _ _ _ _ haddr =>
  ioReference_next (op := ioWriteFromA) ioWriteFromA_cfg ioWriteFromA_mar haddr

/-- Settles O16: the device answers with the write event of the old A already in the trace; a settled
answer does not depend on that event. -/
theorem iotResult : Obligations.IotResult := by
  intro ind rel f s haddr
  refine ⟨ioAnswer (effective ind rel f s) (ioWriteFromA (effective ind rel f s) s),
    fun _ _ hsettled => ioAnswer_of_settled ((ioWriteFromA_ioAnswers ..).trans hsettled) _, ?_⟩
  refine (ioReference_next (op := fun x t => ioReadToA x (ioWriteFromA x t))
    (fun _ _ => rfl) (fun _ _ => rfl) haddr).trans ?_
  simp only [ioReadToA_ioWriteFromA]
  rfl

end Sys2Proof.Safety

/-! ## The whole next state of an arithmetic or logic instruction -/

namespace Sys2Proof.Machine

/-! ### The 17-bit sum of ADD (43_arithmetic_logic.md R150) -/

/-- Seventeen bits hold the sum of two words exactly. -/
theorem sum17_toNat (a m : Word) : (sum17 a m).toNat = a.toNat + m.toNat := by
  have ha := a.isLt
  have hm := m.isLt
  rw [sum17, BitVec.toNat_add, BitVec.toNat_setWidth, BitVec.toNat_setWidth]
  omega

theorem addA_eq (a m : Word) : addA a m = a + m := by
  rw [addA, sum17, BitVec.setWidth_add _ _ (by decide), BitVec.setWidth_setWidth_of_le _ (by decide),
    BitVec.setWidth_setWidth_of_le _ (by decide), BitVec.setWidth_eq, BitVec.setWidth_eq]

/-- Bit 16 of the sum is its carry-out. -/
theorem sum17_carry (a m : Word) :
    (sum17 a m).getLsbD 16 = decide (0x10000 ≤ a.toNat + m.toNat) := by
  rw [← sum17_toNat]
  exact BitVec.msb_eq_decide (sum17 a m)

theorem addL_eq (l : Bool) (a m : Word) :
    addL l a m = if 0x10000 ≤ a.toNat + m.toNat then !l else l := by
  rw [addL, sum17_carry]
  by_cases hcarry : 0x10000 ≤ a.toNat + m.toNat <;> simp [hcarry]

end Sys2Proof.Machine

namespace Sys2Proof.Safety

open Sys2Proof.Machine

/-- Settles O12: ADD combines by the exact 17-bit sum, whose low half is the sum of two words and
whose top bit toggles L. -/
theorem addResult : Obligations.AddResult := by
  intro ind rel f s haddr hread
  refine (combine_next (op := fun m t => { t with a := addA t.a m, l := addL t.l t.a m })
    (fun _ _ => rfl) (fun _ _ => rfl) haddr hread).trans ?_
  simp only [addA_eq, addL_eq]

/-- An instruction that gives A a value computed by `g` from A and the datum, and leaves L. -/
theorem combine_a_next (g : Word → Word → Word) {ind rel : Bool} {f : Field} {s : State}
    (haddr : addressable ind rel f s) (hread : readable (effective ind rel f s) s = true) :
    combine (fun m t => { t with a := g t.a m }) ind rel f s = .next { s with
      a := g s.a (s.mem.word (effective ind rel f s))
      mar := opnd rel f s
      dr := drAfter ind rel f s
      mem := afterWriteBack ind rel f s s.mem } :=
  combine_next (op := fun m t => { t with a := g t.a m }) (fun _ _ => rfl) (fun _ _ => rfl) haddr hread

/-- Settles O13: each of the three is its bitwise operation on A and the datum (43_arithmetic_logic.md
R151 to R153). -/
theorem logicResults : Obligations.LogicResults := fun _ _ _ _ haddr hread =>
  ⟨combine_a_next (· &&& ·) haddr hread, combine_a_next (· ||| ·) haddr hread,
    combine_a_next (· ^^^ ·) haddr hread⟩

end Sys2Proof.Safety

/-! ## The whole next state of a jump or a call, and the way back from a call -/

namespace Sys2Proof.Safety

open Sys2Proof.Machine

section
variable {ind rel : Bool} {f : Field} {s t : State} {slot x : Word}

theorem autoindexed_eq_true :
    autoindexed ind rel f s = true ↔ ind = true ∧ isAutoindex (opnd rel f s) = true :=
  Bool.and_eq_true_iff

/-- The write-back touches autoindex words only (40_addressing_modes.md R116). -/
theorem word_afterWriteBack_of_not_autoindex (m : Memory) (hx : isAutoindex x = false) :
    (afterWriteBack ind rel f s m).word x = m.word x := by
  refine word_afterWriteBack_other m ?_
  rintro ⟨hauto, rfl⟩
  exact absurd (autoindexed_eq_true.1 hauto).2 (Bool.eq_false_iff.1 hx)

/-- `PC <- addr` (44_flow_control.md R161). No access of its own puts an address out, so MAR holds the
pointer's address, if there is a pointer, and else what it held before. -/
theorem jump_next (haddr : addressable ind rel f s) :
    jump ind rel f s = .next { s with
      pc := effective ind rel f s
      mar := if ind then opnd rel f s else s.mar
      dr := drAfter ind rel f s
      mem := afterWriteBack ind rel f s s.mem } := by
  have hmar : (if autoindexed ind rel f s then opnd rel f s else (afterMode ind rel f s).mar) =
      if ind then opnd rel f s else s.mar := by
    split
    · next hauto => rw [if_pos (autoindexed_eq_true.1 hauto).1]
    · rfl
  rw [← hmar]
  exact memoryReference_next (u := { afterMode ind rel f s with pc := effective ind rel f s })
    haddr rfl rfl

/-- PC into the slot after the pointer is read, and the write-back last (44_flow_control.md R164,
decision D4). -/
theorem call_next (haddr : addressable ind rel f s) (hacc : accepts slot s = true) :
    call slot ind rel f s = .next { s with
      pc := effective ind rel f s
      mar := if autoindexed ind rel f s then opnd rel f s else slot
      dr := drAfter ind rel f s
      mem := afterWriteBack ind rel f s (pokeMem s.cfg slot s.pc s.mem) } := by
  have hsave : saveReturn slot (afterMode ind rel f s) = .ok _ := saveReturn_eq_ok.2 ⟨hacc, rfl⟩
  exact memoryReference_next (u := { afterMode ind rel f s with
      pc := effective ind rel f s
      mar := slot
      mem := pokeMem s.cfg slot s.pc s.mem }) haddr (by simp only [hsave]; rfl) rfl

/-- A call that goes on has met no access without a meaning. -/
theorem addressable_of_call (hacc : accepts slot s = true) (h : call slot ind rel f s = .next t) :
    addressable ind rel f s := by
  obtain ⟨hptr, -⟩ := memoryReference_eq_next_mode.1 h
  refine ⟨hptr, fun hauto => ?_⟩
  by_contra hback
  rw [call_fault_of_writeBack hptr hacc hauto (Bool.eq_false_iff.2 hback)] at h
  cases h

/-- What a call leaves in a word that no write-back can hit: the slot's write, if it is the slot. -/
theorem word_of_call (hacc : accepts slot s = true) (h : call slot ind rel f s = .next t)
    (hx : isAutoindex x = false) : t.mem.word x = (pokeMem s.cfg slot s.pc s.mem).word x := by
  rw [call_next (addressable_of_call hacc h) hacc] at h
  cases h
  exact word_afterWriteBack_of_not_autoindex _ hx

/-- The jump through the slot of a call resumes behind it: the slot, being no autoindex word, still
holds the saved PC (44_flow_control.md R163, R165). -/
theorem jump_after_call {g : Field} (hopnd : opnd false g t = slot)
    (hslot : isAutoindex slot = false) (hram : kindAt s.cfg.memMap slot = .ram)
    (h : call slot ind rel f s = .next t) :
    ∃ u, jump true false g t = .next u ∧ u.pc = s.pc ∧ u.a = s.a ∧ u.l = s.l ∧ u.i = s.i := by
  have hacc : accepts slot s = true := accepts_of_ram hram
  have hsaved : t.mem.word slot = s.pc := by
    rw [word_of_call hacc h hslot, pokeMem_ram s.pc s.mem hram, Memory.word_write_same]
  have hkept : Within {} s t := call_within _ h
  have hread : readable slot t = true := by
    rw [call_next (addressable_of_call hacc h) hacc] at h
    cases h
    exact readable_of_accepts hacc
  have haddr : addressable true false g t := by
    rw [← hopnd] at hread hslot
    exact ⟨fun _ => hread, fun hauto =>
      absurd (autoindexed_eq_true.1 hauto).2 (Bool.eq_false_iff.1 hslot)⟩
  refine ⟨_, jump_next haddr, ?_, hkept.a_eq rfl, hkept.l_eq rfl, hkept.i_eq rfl⟩
  calc t.mem.word (opnd false g t)
    _ = t.mem.word slot := by rw [hopnd]
    _ = s.pc := hsaved

end

/-- Settles O17: JMP is the jump to the effective address. -/
theorem jmpResult : Obligations.JmpResult := fun _ _ _ _ haddr => jump_next haddr

/-- Settles O18: JSR and TRAP are the calls through words 0000 and 0001. -/
theorem jsrAndTrapResults : Obligations.JsrAndTrapResults := fun _ _ _ _ haddr =>
  ⟨call_next (slot := subretSlot) haddr, call_next (slot := trapretSlot) haddr⟩

/-- Settles O20: RET and RTT jump through the slots of JSR and TRAP, and neither slot is an autoindex
word. -/
theorem returnsResumeBehindTheCall : Obligations.ReturnsResumeBehindTheCall := by
  intro ind rel f s t
  refine ⟨fun hram hjsr => ?_, fun hram htrap => ⟨?_, ?_⟩⟩
  · exact jump_after_call (slot := subretSlot) rfl (by decide) hram hjsr
  · calc t.mem.word 0x0000#16
      _ = (pokeMem s.cfg trapretSlot s.pc s.mem).word 0x0000#16 :=
        word_of_call (accepts_of_ram hram) htrap (by decide)
      _ = s.mem.word 0x0000#16 := word_pokeMem_other s.cfg s.pc s.mem (by decide)
  · exact jump_after_call (slot := trapretSlot) rfl (by decide) hram htrap

end Sys2Proof.Safety

/-! ## OP1: words, single minor operations, and the order of a selection -/

namespace Sys2Proof

/-- A word written as opcode C, ignored bits and operand decodes to the instruction it encodes. -/
theorem decode_op1_words {ign : BitVec 2} {ps : List (Field × Instr)}
    (h : ∀ p ∈ ps, encode p.2 = 0xC#4 ++ ign ++ p.1 ∧ p.2.canonical = p.2) :
    ∀ p ∈ ps, decode (0xC#4 ++ ign ++ p.1) = .ok p.2 := by
  intro p hp
  obtain ⟨hword, hcanonical⟩ := h p hp
  rw [← hword, decode_encode, hcanonical]

end Sys2Proof

namespace Sys2Proof.Machine

/-! ### (L,A) as 17 bits (00_scope.md R10) -/

@[simp] theorem link_linkL_linkA (x : BitVec 17) : link (linkL x) (linkA x) = x := by
  apply BitVec.eq_of_getLsbD_eq
  intro i hi
  rw [getLsbD_link, linkA, linkL, BitVec.getLsbD_setWidth]
  by_cases hlow : i < 16
  · simp [hlow]
  · obtain rfl : i = 16 := by omega
    simp

theorem toNat_link (l : Bool) (a : Word) : (link l a).toNat = l.toNat * 0x10000 + a.toNat := by
  have happend : (link l a).toNat = (BitVec.ofBool l).toNat <<< 16 ||| a.toNat :=
    BitVec.toNat_append _ _
  rw [happend, ← Nat.shiftLeft_add_eq_or_of_lt a.isLt, Nat.shiftLeft_eq, BitVec.toNat_ofBool]

/-- Only FFFF carries into L when (L,A) is incremented (45_op1.md R175). -/
theorem link_add_one (l : Bool) (a : Word) :
    link l a + 1#17 = link (if a = 0xFFFF#16 then !l else l) (a + 1#16) := by
  by_cases hcarry : a = 0xFFFF#16
  · subst hcarry
    revert l
    decide
  · apply BitVec.eq_of_toNat_eq
    have hlt : a.toNat ≠ 0xFFFF := fun h => hcarry (BitVec.eq_of_toNat_eq h)
    have ha := a.isLt
    have hl := l.toNat_lt
    rw [if_neg hcarry, BitVec.toNat_add, toNat_link, toNat_link, BitVec.toNat_add]
    simp only [BitVec.toNat_ofNat]
    omega

theorem minorInc_eq (s : State) :
    minorInc s = { s with
      a := s.a + 1#16
      l := if s.a = 0xFFFF#16 then !s.l else s.l } := by
  rw [minorInc, link_add_one, setLink, linkL_link, linkA_link]

/-! ### The rolls (45_op1.md R177 to R180) -/

/-- Each bit moves up by `n`, modulo 17. -/
theorem getLsbD_rotl17 (x : BitVec 17) {n i : Nat} (hn : n ≤ 17) (hi : i < 17) :
    (rotl17 x n).getLsbD i = x.getLsbD ((i + 17 - n) % 17) := by
  rw [rotl17, BitVec.getLsbD_or, BitVec.getLsbD_shiftLeft, BitVec.getLsbD_ushiftRight]
  by_cases hwrap : i < n
  · have hidx : (i + 17 - n) % 17 = 17 - n + i := by omega
    simp [hi, hwrap, hidx]
  · have hidx : (i + 17 - n) % 17 = i - n := by omega
    have hout : x.getLsbD (17 - n + i) = false := BitVec.getLsbD_of_ge _ _ (by omega)
    simp [hi, hwrap, hidx, hout]

/-- Rotations add up, modulo 17. -/
theorem rotl17_rotl17 (x : BitVec 17) {m n k : Nat} (hm : m ≤ 17) (hn : n ≤ 17) (hk : k ≤ 17)
    (hsum : (m + n) % 17 = k % 17) : rotl17 (rotl17 x m) n = rotl17 x k := by
  apply BitVec.eq_of_getLsbD_eq
  intro i hi
  have hmod : (i + 17 - n) % 17 < 17 := Nat.mod_lt _ (by decide)
  have hidx : ((i + 17 - n) % 17 + 17 - m) % 17 = (i + 17 - k) % 17 := by omega
  rw [getLsbD_rotl17 _ hn hi, getLsbD_rotl17 _ hm hmod, getLsbD_rotl17 _ hk hi, hidx]

/-- Four rotations by `n` are one by `4 * n`, modulo 17. -/
theorem rotl17_four (x : BitVec 17) {n k : Nat} (hn : n ≤ 17) (hk : k ≤ 17)
    (hsum : 4 * n % 17 = k % 17) : rotl17 (rotl17 (rotl17 (rotl17 x n) n) n) n = rotl17 x k := by
  have hmod (j : Nat) : j % 17 ≤ 17 := (Nat.mod_lt j (by decide)).le
  rw [rotl17_rotl17 x hn hn (hmod (n + n)) (by omega),
    rotl17_rotl17 x (hmod _) hn (hmod (n + n + n)) (by omega),
    rotl17_rotl17 x (hmod _) hn hk (by omega)]

/-- Rolls on the 17 bits compose without leaving them. -/
theorem minorRoll_four {r r' : Roll}
    (h : ∀ x, roll17 r (roll17 r (roll17 r (roll17 r x))) = roll17 r' x) (s : State) :
    minorRoll r (minorRoll r (minorRoll r (minorRoll r s))) = minorRoll r' s := by
  simp [minorRoll, setLink, h]

theorem linkL_rotl17 (l : Bool) (a : Word) {n : Nat} (hpos : 0 < n) (hn : n ≤ 16) :
    linkL (rotl17 (link l a) n) = a.getLsbD (16 - n) := by
  have hidx : (16 + 17 - n) % 17 = 16 - n := by omega
  have hlow : 16 - n < 16 := by omega
  rw [linkL, getLsbD_rotl17 _ (by omega) (by decide), hidx, getLsbD_link, if_pos hlow]

/-- A after a rotation of (L,A): the bits that stay in A, L, and the bits that come round. -/
theorem linkA_rotl17 (l : Bool) (a : Word) {n : Nat} (hpos : 0 < n) (hn : n ≤ 16) :
    linkA (rotl17 (link l a) n) =
      (a <<< n) ||| (if l then BitVec.twoPow 16 (n - 1) else 0x0000#16) ||| (a >>> (17 - n)) := by
  apply BitVec.eq_of_getLsbD_eq
  intro i hi
  have hlink : (if l then BitVec.twoPow 16 (n - 1) else 0x0000#16).getLsbD i =
      (decide (n - 1 = i) && l) := by
    cases l with
    | false => simp
    | true =>
      have hlt : n - 1 < 16 := by omega
      simp [BitVec.getLsbD_twoPow, hlt, -BitVec.getLsbD_eq_getElem]
  rw [linkA, BitVec.getLsbD_setWidth, getLsbD_rotl17 _ (by omega) (by omega), getLsbD_link,
    BitVec.getLsbD_or, BitVec.getLsbD_or, BitVec.getLsbD_shiftLeft, BitVec.getLsbD_ushiftRight,
    hlink]
  obtain hround | hL | hstay : i < n - 1 ∨ i = n - 1 ∨ n ≤ i := by omega
  · have hidx : (i + 17 - n) % 17 = 17 - n + i := by omega
    have hsrc : 17 - n + i < 16 := by omega
    have hbelow : i < n := by omega
    have hne : n - 1 ≠ i := by omega
    simp [hi, hidx, hsrc, hbelow, hne, -BitVec.getLsbD_eq_getElem]
  · have hidx : (i + 17 - n) % 17 = 16 := by omega
    have hbelow : i < n := by omega
    have hout : a.getLsbD (17 - n + i) = false := BitVec.getLsbD_of_ge _ _ (by omega)
    simp [hi, hidx, hbelow, hL.symm, hout, -BitVec.getLsbD_eq_getElem]
  · have hidx : (i + 17 - n) % 17 = i - n := by omega
    have hsrc : i - n < 16 := by omega
    have habove : ¬ i < n := by omega
    have hne : n - 1 ≠ i := by omega
    have hout : a.getLsbD (17 - n + i) = false := BitVec.getLsbD_of_ge _ _ (by omega)
    simp [hi, hidx, hsrc, habove, hne, hout, -BitVec.getLsbD_eq_getElem]

/-- A roll that rotates (L,A) to the left by `n` (a right roll by `k` is one by `17 - k`). -/
theorem minorRoll_eq {r : Roll} {n : Nat} (hr : ∀ x, roll17 r x = rotl17 x n) (hpos : 0 < n)
    (hn : n ≤ 16) (s : State) :
    minorRoll r s = { s with
      a := (s.a <<< n) ||| (if s.l then BitVec.twoPow 16 (n - 1) else 0x0000#16) |||
        (s.a >>> (17 - n))
      l := s.a.getLsbD (16 - n) } := by
  rw [minorRoll, hr, setLink, linkL_rotl17 _ _ hpos hn, linkA_rotl17 _ _ hpos hn]

theorem minorRoll_rbl (s : State) :
    minorRoll .rbl s = { s with
      a := (s.a <<< 1) ||| (if s.l then 0x0001#16 else 0x0000#16)
      l := s.a.getLsbD 15 } := by
  have hgone : s.a >>> 16 = 0#16 := BitVec.ushiftRight_eq_zero (Nat.le_refl 16)
  refine (minorRoll_eq (n := 1) (fun _ => rfl) (by decide) (by decide) s).trans ?_
  rw [hgone, BitVec.or_zero]
  rfl

theorem minorRoll_rbr (s : State) :
    minorRoll .rbr s = { s with
      a := (s.a >>> 1) ||| (if s.l then 0x8000#16 else 0x0000#16)
      l := s.a.getLsbD 0 } := by
  have hgone : s.a <<< 16 = 0#16 := BitVec.shiftLeft_eq_zero (Nat.le_refl 16)
  refine (minorRoll_eq (n := 16) (fun _ => rfl) (by decide) (by decide) s).trans ?_
  rw [hgone, BitVec.zero_or, BitVec.or_comm]
  rfl

theorem minorRoll_rnl (s : State) :
    minorRoll .rnl s = { s with
      a := (s.a <<< 4) ||| (if s.l then 0x0008#16 else 0x0000#16) ||| (s.a >>> 13)
      l := s.a.getLsbD 12 } :=
  minorRoll_eq (n := 4) (fun _ => rfl) (by decide) (by decide) s

theorem minorRoll_rnr (s : State) :
    minorRoll .rnr s = { s with
      a := (s.a >>> 4) ||| (if s.l then 0x1000#16 else 0x0000#16) ||| (s.a <<< 13)
      l := s.a.getLsbD 3 } := by
  refine (minorRoll_eq (n := 13) (fun _ => rfl) (by decide) (by decide) s).trans ?_
  rw [BitVec.or_comm, BitVec.or_comm (s.a <<< 13), ← BitVec.or_assoc]
  rfl

theorem minorRoll_rbl_four (s : State) :
    minorRoll .rbl (minorRoll .rbl (minorRoll .rbl (minorRoll .rbl s))) = minorRoll .rnl s :=
  minorRoll_four (r := .rbl) (r' := .rnl)
    (fun x => rotl17_four x (n := 1) (k := 4) (by decide) (by decide) (by decide)) s

theorem minorRoll_rbr_four (s : State) :
    minorRoll .rbr (minorRoll .rbr (minorRoll .rbr (minorRoll .rbr s))) = minorRoll .rnr s :=
  minorRoll_four (r := .rbr) (r' := .rnr)
    (fun x => rotl17_four x (n := 16) (k := 13) (by decide) (by decide) (by decide)) s

/-- A left nybble roll brings nothing round when the top three bits of A are 0. -/
theorem ushiftRight_eq_zero_of_lt {a : Word} (h : a.toNat < 0x2000) : a >>> 13 = 0#16 := by
  apply BitVec.eq_of_toNat_eq
  rw [BitVec.toNat_ushiftRight, Nat.shiftRight_eq_div_pow]
  exact Nat.div_eq_of_lt h

/-! ### What a selection does to the state -/

@[simp] theorem op1State_nop (s : State) : op1State {} s = s := minorRoll_none s

@[simp] theorem op1State_cla (s : State) : op1State { cla := true } s = minorCla s := minorRoll_none _

@[simp] theorem op1State_cll (s : State) : op1State { cll := true } s = minorCll s := minorRoll_none _

@[simp] theorem op1State_not (s : State) : op1State { not := true } s = minorNot s := minorRoll_none _

@[simp] theorem op1State_inc (s : State) : op1State { inc := true } s = minorInc s := minorRoll_none _

@[simp] theorem op1State_cpl (s : State) : op1State { cpl := true } s = minorCpl s := minorRoll_none _

theorem op1State_cll_roll (r : Roll) (s : State) :
    op1State { cll := true, roll := r } s = minorRoll r (minorCll s) := rfl

theorem op1State_cfg (m : Op1Bits) (s : State) : (op1State m s).cfg = s.cfg := by
  rw [op1State_frame]

theorem minorNot_eq (s : State) : minorNot s = { s with a := ~~~s.a } := by
  rw [minorNot, ← BitVec.xor_allOnes]
  rfl

theorem minorCpl_eq (s : State) : minorCpl s = { s with l := !s.l } := by
  rw [minorCpl, Bool.xor_true]

end Sys2Proof.Machine

namespace Sys2Proof.Safety

open Sys2Proof.Machine

section
variable {ign : BitVec 2}

/-! ### Runs of OP1 instructions, one after the other -/

theorem runOp1_of_allowed {s : State} (h : irBitsAllowed ign s) (m : Op1Bits) :
    runOp1 ign m s = .next (op1State m s) := by
  refine runOp1_eq_next.2 ⟨?_, rfl⟩
  obtain hignore | hzero := h
  · exact irBitsRefused_of_ignore hignore ign
  · unfold irBitsRefused
    cases s.cfg.opIrBits <;> simp [hzero]

/-- Where the ignored bits are allowed, the instructions `is` compute `op`, and the ignored bits stay
allowed. -/
def Computes (ign : BitVec 2) (is : List Instr) (op : State → State) : Prop :=
  ∀ s, irBitsAllowed ign s → execAll is s = .next (op s) ∧ irBitsAllowed ign (op s)

theorem Computes.nil : Computes ign [] id := fun _ h => ⟨rfl, h⟩

/-- One instruction computes what its selection of minor operations does. -/
theorem Computes.op1 {i : Instr} {m : Op1Bits} {op : State → State} (hi : exec i = runOp1 ign m)
    (hop : op1State m = op) : Computes ign [i] op := by
  subst hop
  intro s h
  refine ⟨?_, ?_⟩
  · rw [execAll, hi, runOp1_of_allowed h]
    rfl
  · rwa [irBitsAllowed, op1State_cfg]

theorem execAll_append {is js : List Instr} {s t : State} (h : execAll is s = .next t) :
    execAll (is ++ js) s = execAll js t := by
  induction is generalizing s with
  | nil =>
    cases h
    rfl
  | cons i is ih =>
    rw [List.cons_append, execAll]
    rw [execAll] at h
    cases hexec : exec i s with
    | next u =>
      rw [hexec] at h
      exact ih h
    | fault r => simp [hexec] at h
    | refused e => simp [hexec] at h

theorem Computes.append {is js : List Instr} {f g : State → State} (hf : Computes ign is f)
    (hg : Computes ign js g) : Computes ign (is ++ js) (g ∘ f) := by
  intro s h
  obtain ⟨hrun, hallowed⟩ := hf s h
  rw [execAll_append hrun]
  exact hg (f s) hallowed

/-- A minor operation that is left out computes nothing. -/
theorem Computes.selected {i : Instr} {op : State → State} (h : Computes ign [i] op) (b : Bool) :
    Computes ign (if b then [i] else []) (selected b op) := by
  cases b
  · exact Computes.nil
  · exact h

theorem computes_rbl : Computes ign [.rbl ign] (minorRoll .rbl) :=
  .op1 (m := { roll := .rbl }) rfl rfl

theorem computes_rbr : Computes ign [.rbr ign] (minorRoll .rbr) :=
  .op1 (m := { roll := .rbr }) rfl rfl

theorem computes_rollAlone (r : Roll) : Computes ign (rollAlone ign r) (minorRoll r) := by
  cases r with
  | none =>
    have hnone : minorRoll .none = id := funext minorRoll_none
    rw [hnone]
    exact Computes.nil
  | rbl => exact computes_rbl
  | rbr => exact computes_rbr
  | rnl => exact .op1 (m := { roll := .rnl }) rfl rfl
  | rnr => exact .op1 (m := { roll := .rnr }) rfl rfl

/-- The instructions of a selection compute the selection (45_op1.md R170). -/
theorem computes_op1Sequence (m : Op1Bits) : Computes ign (op1Sequence ign m) (op1State m) := by
  have hcla : Computes ign [.cla ign] minorCla := .op1 rfl (funext op1State_cla)
  have hcll : Computes ign [.cll ign] minorCll := .op1 rfl (funext op1State_cll)
  have hnot : Computes ign [.not ign] minorNot := .op1 rfl (funext op1State_not)
  have hinc : Computes ign [.inc ign] minorInc := .op1 rfl (funext op1State_inc)
  have hcpl : Computes ign [.cpl ign] minorCpl := .op1 rfl (funext op1State_cpl)
  exact (((((hcla.selected m.cla).append (hcll.selected m.cll)).append
    (hnot.selected m.not)).append (hinc.selected m.inc)).append (hcpl.selected m.cpl)).append
    (computes_rollAlone m.roll)

end

/-! ### The statements -/

/-- Settles O27: OP1 and the sequence of its minor operations compute the same state, and `op1State`
keeps everything but A and L. -/
theorem op1RunsItsMinorOperationsInOrder : Obligations.Op1RunsItsMinorOperationsInOrder :=
  fun _ m s h => ⟨op1State m s, runOp1_of_allowed h m, (computes_op1Sequence m s h).1,
    op1State_frame m s⟩

/-- Settles O24: the increment of (L,A), seen as one of A and a carry into L. -/
theorem incrementResult : Obligations.IncrementResult := by
  intro ign s h
  refine ⟨decode_encode (.inc ign), (runOp1_of_allowed h { inc := true }).trans ?_⟩
  rw [op1State_inc, minorInc_eq]

/-- Settles O25: the two bit rolls are rotations of (L,A) by 1 and by 16. -/
theorem bitRollResults : Obligations.BitRollResults := by
  intro ign s h
  refine ⟨decode_op1_words (by simp [encode, Instr.canonical]), ?_, ?_⟩
  · rw [← minorRoll_rbl]
    exact runOp1_of_allowed h { roll := .rbl }
  · rw [← minorRoll_rbr]
    exact runOp1_of_allowed h { roll := .rbr }

/-- Settles O26: the nybble rolls are rotations of (L,A) by 4 and by 13; clearing L first leaves out
its term. -/
theorem nybbleRollResults : Obligations.NybbleRollResults := by
  intro ign s h
  have hrnl : exec (.rnl ign) s = .next (minorRoll .rnl s) := runOp1_of_allowed h { roll := .rnl }
  have hrnr : exec (.rnr ign) s = .next (minorRoll .rnr s) := runOp1_of_allowed h { roll := .rnr }
  have hsnl : exec (.snl ign) s = .next { s with
      a := (s.a <<< 4) ||| (s.a >>> 13), l := s.a.getLsbD 12 } := by
    refine (runOp1_of_allowed h { cll := true, roll := .rnl }).trans ?_
    rw [op1State_cll_roll, minorRoll_rnl]
    simp [minorCll]
  have hsnr : exec (.snr ign) s = .next { s with
      a := (s.a >>> 4) ||| (s.a <<< 13), l := s.a.getLsbD 3 } := by
    refine (runOp1_of_allowed h { cll := true, roll := .rnr }).trans ?_
    rw [op1State_cll_roll, minorRoll_rnr]
    simp [minorCll]
  refine ⟨decode_op1_words (by simp [encode, Instr.canonical]), ?_, ?_, ?_, ?_, hsnl, hsnr, ?_⟩
  · rw [hrnl, minorRoll_rnl]
  · rw [hrnr, minorRoll_rnr]
  · rw [hrnl, ← minorRoll_rbl_four]
    exact (((computes_rbl.append computes_rbl).append computes_rbl).append computes_rbl s h).1
  · rw [hrnr, ← minorRoll_rbr_four]
    exact (((computes_rbr.append computes_rbr).append computes_rbr).append computes_rbr s h).1
  · intro hlt
    rw [hsnl, ushiftRight_eq_zero_of_lt hlt, BitVec.or_zero]

/-- Settles O23: each instruction is one selection, and its effect the minor operation's. -/
theorem clearAndComplementResults : Obligations.ClearAndComplementResults := by
  intro ign s h
  refine ⟨decode_op1_words (by simp [encode, Instr.canonical]), ?_, ?_, ?_, ?_, ?_⟩
  · exact (runOp1_of_allowed h {}).trans (by rw [op1State_nop])
  · exact (runOp1_of_allowed h { cla := true }).trans (by rw [op1State_cla, minorCla])
  · exact (runOp1_of_allowed h { cll := true }).trans (by rw [op1State_cll, minorCll])
  · exact (runOp1_of_allowed h { not := true }).trans (by rw [op1State_not, minorNot_eq])
  · exact (runOp1_of_allowed h { cpl := true }).trans (by rw [op1State_cpl, minorCpl_eq])

end Sys2Proof.Safety

/-! ## OP2: skip conditions, words, and the whole next state -/

namespace Sys2Proof

/-- A word written as any opcode, ignored bits and operand decodes to the instruction it encodes. -/
theorem decode_ignoredBits_words {o : BitVec 4} {ign : BitVec 2} {ps : List (Field × Instr)}
    (h : ∀ p ∈ ps, encode p.2 = o ++ ign ++ p.1 ∧ p.2.canonical = p.2) :
    ∀ p ∈ ps, decode (o ++ ign ++ p.1) = .ok p.2 := by
  intro p hp
  obtain ⟨hword, hcanonical⟩ := h p hp
  rw [← hword, decode_encode, hcanonical]

end Sys2Proof

namespace Sys2Proof.Machine

/-! ### The skip conditions (46_op2.md R199) -/

section
variable {m : Op2Bits} {a : Word} {l : Bool}

/-- The sign bit of A is the sign of A read as a two's complement number (00_scope.md R9). -/
theorem isNegative_eq (a : Word) : isNegative a = decide (a.toInt < 0) :=
  (BitVec.msb_eq_getLsbD_last a).symm.trans BitVec.msb_eq_toInt

theorem toInt_eq_zero_iff : a.toInt = 0 ↔ a = 0x0000#16 :=
  BitVec.toInt_inj (y := 0x0000#16)

/-- G1 skips when a selected condition holds. -/
theorem skips_g1_iff (hg : m.g2 = false) :
    skips m a l = true ↔ (m.testN = true ∧ a.toInt < 0) ∨ (m.testZ = true ∧ a = 0x0000#16) ∨
      (m.testL = true ∧ l = true) := by
  simp only [skips, hg, isNegative_eq, isZero, Bool.or_eq_true, Bool.and_eq_true,
    decide_eq_true_iff, or_assoc]

/-- The G2 condition is the De Morgan dual of the G1 condition on the same test bits. -/
theorem skips_g2_eq_not_g1 (m : Op2Bits) (a : Word) (l : Bool) :
    skips { m with g2 := true } a l = !skips { m with g2 := false } a l := by
  simp only [skips, Bool.not_or, Bool.not_and]

/-- G2 skips when no selected condition holds. -/
theorem skips_g2_iff (hg : m.g2 = true) :
    skips m a l = true ↔ (m.testN = true → 0 ≤ a.toInt) ∧ (m.testZ = true → a ≠ 0x0000#16) ∧
      (m.testL = true → l = false) := by
  have hdual : skips m a l = !skips { m with g2 := false } a l := by
    rw [← skips_g2_eq_not_g1, ← hg]
  rw [hdual, Bool.not_eq_true', Bool.eq_false_iff, ne_eq, skips_g1_iff rfl]
  simp only [not_or, not_and, Int.not_lt, Bool.not_eq_true, ne_eq]

end

/-! ### What a selection does to the state -/

theorem op2State_pc (m : Op2Bits) (s : State) :
    (op2State m s).pc = if skips m s.a s.l then s.pc + 1#16 else s.pc := by
  simp only [op2State, selected_field State.pc minorSti_pc, selected_field State.pc minorCli_pc,
    selected_field State.pc minorCla_pc, minorSkip_pc]

theorem op2State_a_of_cla2 {m : Op2Bits} (h : m.cla2 = true) (s : State) :
    (op2State m s).a = 0x0000#16 := by
  rw [op2State, h, selected_field State.a minorSti_a, selected_field State.a minorCli_a]
  rfl

/-- The whole selection: each register by the minor operations that write it. -/
theorem op2State_eq (m : Op2Bits) (s : State) :
    op2State m s = { s with
      pc := if skips m s.a s.l then s.pc + 1#16 else s.pc
      a := if m.cla2 then 0x0000#16 else s.a
      i := if m.sti then true else if m.cli then false else s.i } := by
  have ha : (op2State m s).a = if m.cla2 then 0x0000#16 else s.a := by
    cases hcla : m.cla2 with
    | false => exact op2State_a hcla s
    | true => exact op2State_a_of_cla2 hcla s
  have hi : (op2State m s).i = if m.sti then true else if m.cli then false else s.i := by
    rw [op2State_i]
    cases m.sti <;> cases m.cli <;> rfl
  rw [op2State_frame, op2State_pc, ha, hi]

/-- A selection without CLA2, CLI and STI is the skip and nothing else. -/
theorem op2State_skip (g n z l : Bool) (s : State) :
    op2State { g2 := g, testN := n, testZ := z, testL := l } s =
      minorSkip (skips { g2 := g, testN := n, testZ := z, testL := l } s.a s.l) s := rfl

@[simp] theorem op2State_cla2 (s : State) : op2State { cla2 := true } s = minorCla s := rfl

@[simp] theorem op2State_cli (s : State) : op2State { cli := true } s = minorCli s := rfl

@[simp] theorem op2State_sti (s : State) : op2State { sti := true } s = minorSti s := rfl

end Sys2Proof.Machine

namespace Sys2Proof.Safety

open Sys2Proof.Machine

section
variable {ign : BitVec 2} {s : State}

/-- OP1 and OP2 look at the ignored bits alike (30_encoding.md R93). -/
theorem irBitsRefused_of_allowed (h : irBitsAllowed ign s) : irBitsRefused ign s = false :=
  (runOp1_eq_next.1 (runOp1_of_allowed h {})).1

theorem runOp2_of_allowed (h : irBitsAllowed ign s) (m : Op2Bits) :
    runOp2 ign m s = .next (op2State m s) :=
  runOp2_eq_next.2 ⟨irBitsRefused_of_allowed h, rfl⟩

/-- A selection of test bits alone, whose condition is `p`. -/
theorem runOp2_skip_next {g n z l : Bool} {p : Prop} [Decidable p] (h : irBitsAllowed ign s)
    (hp : skips { g2 := g, testN := n, testZ := z, testL := l } s.a s.l = true ↔ p) :
    runOp2 ign { g2 := g, testN := n, testZ := z, testL := l } s =
      .next { s with pc := if p then s.pc + 1#16 else s.pc } := by
  rw [runOp2_of_allowed h, op2State_skip, minorSkip]
  simp only [hp]

end

/-! ### The statements -/

/-- Settles O30: each skip selects at most one condition, directly in G1 and negated in G2;
without a condition G1 never skips and G2 always does. -/
theorem skipResults : Obligations.SkipResults := by
  intro ign s h
  refine ⟨decode_ignoredBits_words (by simp [encode, Instr.canonical]), ?_, ?_, ?_, ?_, ?_, ?_, ?_,
    ?_⟩
  · exact runOp2_skip_next (p := False) h (by simp [skips_g1_iff])
  · exact runOp2_skip_next h (by simp [skips_g1_iff])
  · exact runOp2_skip_next h (by simp [skips_g1_iff, toInt_eq_zero_iff])
  · exact runOp2_skip_next h (by simp [skips_g1_iff])
  · exact runOp2_skip_next (p := True) h (by simp [skips_g2_iff])
  · exact runOp2_skip_next h (by simp [skips_g2_iff])
  · exact runOp2_skip_next h (by simp [skips_g2_iff, toInt_eq_zero_iff])
  · exact runOp2_skip_next h (by simp [skips_g2_iff])

/-- Settles O32: each instruction is one selection, and its effect the minor operation's. -/
theorem clearAccumulatorAndInterruptFlagResults :
    Obligations.ClearAccumulatorAndInterruptFlagResults := by
  intro ign s h
  refine ⟨decode_ignoredBits_words (by simp [encode, Instr.canonical]), ?_, ?_, ?_⟩
  · exact (runOp2_of_allowed h { cla2 := true }).trans (by rw [op2State_cla2, minorCla])
  · exact (runOp2_of_allowed h { cli := true }).trans (by rw [op2State_cli, minorCli])
  · exact (runOp2_of_allowed h { sti := true }).trans (by rw [op2State_sti, minorSti])

/-- Settles O33: the conditions of the two groups, and their duality. -/
theorem skipConditionsCombine : Obligations.SkipConditionsCombine := fun n z l m a b =>
  ⟨skips_g1_iff rfl, skips_g2_iff rfl,
    skips_g2_eq_not_g1 { m with testN := n, testZ := z, testL := l } a b⟩

/-- Settles O34: OP2 goes on with the state of its selection. -/
theorem op2Result : Obligations.Op2Result := by
  intro ign m s h
  rw [← op2State_eq]
  exact runOp2_of_allowed h m

end Sys2Proof.Safety

/-! ## The macros of one minor operation after another, immediate loads, and source lines -/

namespace Sys2Proof.Machine

/-! ### NEG and ING (48_assembler_and_macros.md R221, R222) -/

theorem op1State_not_inc (s : State) :
    op1State { not := true, inc := true } s = minorInc (minorNot s) := minorRoll_none _

/-- Complementing gives FFFF, the value that carries into L, exactly from 0000. -/
theorem not_eq_ffff_iff {a : Word} : ~~~a = 0xFFFF#16 ↔ a = 0x0000#16 :=
  ⟨BitVec.not_eq_comm.1, fun h => h ▸ rfl⟩

/-- The complement plus one is the two's complement negative. -/
theorem minorInc_minorNot (s : State) :
    minorInc (minorNot s) = { s with
      a := 0#16 - s.a
      l := if s.a = 0x0000#16 then !s.l else s.l } := by
  rw [minorInc_eq, minorNot_eq, BitVec.zero_sub, BitVec.neg_eq_not_add]
  simp only [not_eq_ffff_iff]

/-- The complement is the negative of the successor. -/
theorem not_eq_zero_sub_add_one (a : Word) : ~~~a = 0#16 - (a + 1#16) := by
  rw [BitVec.zero_sub, BitVec.neg_add, BitVec.not_eq_neg_add]

/-! ### SBL and SBR (48_assembler_and_macros.md R226, R227): a roll through a cleared L -/

theorem minorRoll_rbl_minorCll (s : State) :
    minorRoll .rbl (minorCll s) = { s with a := s.a <<< 1, l := s.a.getLsbD 15 } := by
  rw [minorRoll_rbl, minorCll]
  exact congrArg (fun a => { s with a := a, l := s.a.getLsbD 15 }) BitVec.or_zero

theorem minorRoll_rbr_minorCll (s : State) :
    minorRoll .rbr (minorCll s) = { s with a := s.a >>> 1, l := s.a.getLsbD 0 } := by
  rw [minorRoll_rbr, minorCll]
  exact congrArg (fun a => { s with a := a, l := s.a.getLsbD 0 }) BitVec.or_zero

/-! ### SNP and SPA (48_assembler_and_macros.md R224, R225) -/

theorem skips_snp_iff {a : Word} {l : Bool} :
    skips { testN := true, testZ := true } a l = true ↔ a.toInt ≤ 0 := by
  rw [skips_g1_iff rfl, ← toInt_eq_zero_iff]
  simp only [true_and, Bool.false_eq_true, false_and, or_false]
  omega

theorem skips_spa_iff {a : Word} {l : Bool} :
    skips { g2 := true, testN := true, testZ := true } a l = true ↔ 0 < a.toInt := by
  rw [skips_g2_iff rfl, ne_eq, ← toInt_eq_zero_iff]
  simp only [true_imp_iff, Bool.false_eq_true, false_imp_iff, and_true]
  omega

/-! ### Source lines (48_assembler_and_macros.md R215, R216) -/

/-- The operand stands alone in its bits of a word. -/
theorem encodeWord_or_field (o : BitVec 4) (ind rel : Bool) (f : Field) :
    encodeWord o ind rel f = encodeWord o ind rel 0#10 ||| f.setWidth 16 := by
  apply BitVec.eq_of_getLsbD_eq
  intro i hi
  rw [BitVec.getLsbD_or, BitVec.getLsbD_setWidth, getLsbD_encodeWord, getLsbD_encodeWord]
  by_cases hlow : i < 10
  · simp [hlow, hi]
  · have hout : f.getLsbD i = false := BitVec.getLsbD_of_ge _ _ (Nat.le_of_not_lt hlow)
    simp [hlow, hout]

/-- The word of the one format as the OR of its parts (30_encoding.md R81). -/
theorem encodeWord_eq_or (o : BitVec 4) (ind rel : Bool) (f : Field) :
    encodeWord o ind rel f =
      (o ++ 0#12 : Word) ||| (if ind then 0x0800#16 else 0#16) |||
        (if rel then 0x0400#16 else 0#16) ||| f.setWidth 16 := by
  have hflags : encodeWord o ind rel 0#10 =
      (o ++ 0#12 : Word) ||| (if ind then 0x0800#16 else 0#16) |||
        (if rel then 0x0400#16 else 0#16) := by
    revert o ind rel
    decide
  rw [encodeWord_or_field, hflags]

/-- Bit 10 is the R bit, so complementing it negates R. -/
theorem encodeWord_xor_rBit (o : BitVec 4) (ind rel : Bool) (f : Field) :
    encodeWord o ind rel f ^^^ 0x0400#16 = encodeWord o ind (!rel) f := by
  have hmask : ∀ i < 16, (0x0400#16).getLsbD i = decide (i = 10) := by decide
  apply BitVec.eq_of_getLsbD_eq
  intro i hi
  rw [BitVec.getLsbD_xor, hmask i hi, getLsbD_encodeWord, getLsbD_encodeWord]
  by_cases hrel : i = 10
  · simp [hrel]
  · simp [hrel]

theorem orTokens_append (xs ys : List Token) :
    orTokens (xs ++ ys) = orTokens xs ||| orTokens ys := by
  induction xs with
  | nil => exact BitVec.zero_or.symm
  | cons t xs ih => rw [List.cons_append, orTokens, ih, orTokens, BitVec.or_assoc]

/-- The line of a mnemonic whose symbol is an opcode above zeros: the token R stands where the
reference is not page-relative. -/
theorem assemble_line {x : AsmSymbol} {o : BitVec 4} (hx : symbolValue x = o ++ 0#12)
    (ind rel : Bool) (f : Field) :
    assemble ([.symbol x] ++ (if ind then [.symbol .iFlag] else []) ++
      (if rel then [] else [.symbol .rFlag]) ++ [.number (f.setWidth 16)]) =
      encodeWord o ind rel f := by
  have hor : orTokens ([.symbol x] ++ (if ind then [.symbol .iFlag] else []) ++
      (if rel then [] else [.symbol .rFlag]) ++ [.number (f.setWidth 16)]) =
      encodeWord o ind (!rel) f := by
    simp only [orTokens_append, encodeWord_eq_or, ← hx]
    cases ind <;> cases rel <;> simp [orTokens, tokenValue, symbolValue]
  rw [assemble, hor, encodeWord_xor_rBit, Bool.not_not]

end Sys2Proof.Machine

namespace Sys2Proof.Safety

open Sys2Proof.Machine

/-- Settles O35: the words are those of the two instructions, and LI assembles a Page Zero operand. -/
theorem loadImmediateResults : Obligations.LoadImmediateResults := by
  intro ign rel f s
  refine ⟨decode_encode (.lia ign true f), decode_encode (.li ign f), rfl, ?_⟩
  rw [← opnd_pageZero (s := s)]
  rfl

/-- Settles O28: NEG is NOT and then INC, ING is NOT alone. -/
theorem negateResults : Obligations.NegateResults := by
  intro ign s h
  refine ⟨decode_encode (.neg ign), rfl, ?_, ?_⟩
  · rw [← minorInc_minorNot, ← op1State_not_inc]
    exact runOp1_of_allowed h { not := true, inc := true }
  · rw [← not_eq_zero_sub_add_one, ← minorNot_eq, ← op1State_not]
    exact runOp1_of_allowed h { not := true }

/-- Settles O29: SBL and SBR are CLL and then a bit roll, which brings the cleared L into A. -/
theorem bitShiftResults : Obligations.BitShiftResults := by
  intro ign s h
  refine ⟨decode_ignoredBits_words (by simp [encode, Instr.canonical]), ?_, ?_⟩
  · rw [← minorRoll_rbl_minorCll, ← op1State_cll_roll]
    exact runOp1_of_allowed h { cll := true, roll := .rbl }
  · rw [← minorRoll_rbr_minorCll, ← op1State_cll_roll]
    exact runOp1_of_allowed h { cll := true, roll := .rbr }

/-- Settles O31: SNP skips when A is negative or zero, SPA when it is neither. -/
theorem signedSkipMacroResults : Obligations.SignedSkipMacroResults := by
  intro ign s h
  refine ⟨decode_ignoredBits_words (by simp [encode, Instr.canonical]), ?_, ?_⟩
  · exact runOp2_skip_next h skips_snp_iff
  · exact runOp2_skip_next h skips_spa_iff

/-- Settles O60: the symbol of each of the thirteen mnemonics is its opcode above zeros. -/
theorem sourceLinesAssemble : Obligations.SourceLinesAssemble := by
  intro ind rel f p hp
  refine assemble_line ?_ ind rel f
  revert p
  decide

end Sys2Proof.Safety

/-! ## The interrupt, the self-jump, and the words that run -/

namespace Sys2Proof.Machine

open Sys2Proof.Safety

/-! ### A step without a next state -/

/-- A step whose instruction is refused is refused. -/
theorem step_of_exec_refused {s : State} {i : Instr} {e : Refusal} (hread : readable s.pc s = true)
    (hdecode : decode (s.mem.word s.pc) = .ok i) (hexec : exec i (fetched s) = .refused e) :
    step s = .refused e := by
  unfold fetched at hexec
  rw [stepRunsTheDecodedInstruction s i hread hdecode]
  simp only [hexec]

/-! ### The boundary -/

section
variable {b : Bool} {s : State}

/-- With nothing noticed, only the environment's own fields move. -/
theorem noticeRequest_of_not_noticed (hirq : s.irqPending = false)
    (hnone : ((b || s.i) && requestPresent s) = false) :
    noticeRequest b s = { s with irqRequests := s.irqRequests.tail, tick := s.tick + 1 } := by
  rw [noticeRequest, hirq, hnone, ← hirq, Bool.or_self]

/-- A request noticed in the window is entered at the same boundary (60_exceptions.md R247). -/
theorem boundary_of_noticed (hwindow : ((b || s.i) && requestPresent s) = true)
    (hacc : accepts isrretSlot s = true) :
    boundary b s = .next (enterIsr (noticeRequest b s)) :=
  boundary_eq_next.2 (.inl ⟨by rw [noticeRequest_irqPending, hwindow, Bool.or_true], hacc, rfl⟩)

theorem boundary_of_not_noticed (hirq : s.irqPending = false)
    (hnone : ((b || s.i) && requestPresent s) = false) :
    boundary b s = .next { s with irqRequests := s.irqRequests.tail, tick := s.tick + 1 } := by
  rw [← noticeRequest_of_not_noticed hirq hnone]
  exact boundary_eq_next.2 (.inr ⟨by rw [noticeRequest_irqPending, hirq, hnone, Bool.or_self], rfl⟩)

/-- Where word 0002 takes the write, a boundary goes on whatever the environment does. -/
theorem boundary_of_accepts (b : Bool) (hacc : accepts isrretSlot s = true) :
    ∃ t, boundary b s = .next t := by
  cases hirq : (noticeRequest b s).irqPending with
  | false => exact ⟨_, boundary_eq_next.2 (.inr ⟨hirq, rfl⟩)⟩
  | true => exact ⟨_, boundary_eq_next.2 (.inl ⟨hirq, hacc, rfl⟩)⟩

end

/-! ### A jump through a slot, the way back of RET, RTT and JMP I R 0002 -/

/-- A slot is no autoindex word, so the jump only reads it. -/
theorem jump_through_slot {g : Field} {slot : Word} {s : State} (hopnd : opnd false g s = slot)
    (hslot : isAutoindex slot = false) (hread : readable slot s = true) :
    jump true false g s = .next { s with
      pc := s.mem.word slot, mar := slot, dr := s.mem.word slot } := by
  subst hopnd
  have hauto : autoindexed true false g s = false := hslot
  have haddr : addressable true false g s := ⟨fun _ => hread, by simp [hauto]⟩
  rw [jump_next haddr, afterWriteBack, hauto]
  rfl

/-! ### Where every address is RAM -/

section
variable {s : State}

theorem addressable_of_all_ram (h : s.cfg.memMap = []) (ind rel : Bool) (f : Field) :
    addressable ind rel f s :=
  ⟨fun _ => readable_of_all_ram h, fun _ => accepts_of_all_ram h⟩

theorem OnlyAL.cfg_eq {t : State} (h : OnlyAL s t) : t.cfg = s.cfg := by
  rw [h]

theorem OnlyAL.mar_eq {t : State} (h : OnlyAL s t) : t.mar = s.mar := by
  rw [h]

/-- Where every address is RAM no access stops an instruction: it goes on or is refused. -/
theorem ExecForm.next_or_refused {run : State → Result} (hrun : ExecForm run)
    (h : s.cfg.memMap = []) : (∃ t, run s = .next t) ∨ ∃ e, run s = .refused e := by
  have haddr := addressable_of_all_ram h
  cases hrun with
  | combine op hop ind rel f =>
    exact .inl ⟨_, combine_next (fun m t => (hop m t).cfg_eq) (fun m t => (hop m t).mar_eq)
      (haddr ind rel f) (readable_of_all_ram h)⟩
  | jump ind rel f => exact .inl ⟨_, jump_next (haddr ind rel f)⟩
  | call slot ind rel f => exact .inl ⟨_, call_next (haddr ind rel f) (accepts_of_all_ram h)⟩
  | inp ind rel f =>
    obtain ⟨v, -, hin⟩ := inResult ind rel f s (haddr ind rel f)
    exact .inl ⟨_, hin⟩
  | out ind rel f => exact .inl ⟨_, outResult ind rel f s (haddr ind rel f)⟩
  | iot ind rel f =>
    obtain ⟨v, -, hiot⟩ := iotResult ind rel f s (haddr ind rel f)
    exact .inl ⟨_, hiot⟩
  | load ind rel f =>
    exact .inl ⟨_, loadResult ind rel f s (haddr ind rel f) (readable_of_all_ram h)⟩
  | store ind rel f =>
    exact .inl ⟨_, storeResult ind rel f s (haddr ind rel f) (accepts_of_all_ram h)⟩
  | op1 ign m =>
    cases hign : irBitsRefused ign s with
    | false => exact .inl ⟨_, runOp1_eq_next.2 ⟨hign, rfl⟩⟩
    | true => exact .inr ⟨_, runOp1_eq_refused.2 ⟨hign, rfl⟩⟩
  | op2 ign m =>
    cases hign : irBitsRefused ign s with
    | false => exact .inl ⟨_, runOp2_eq_next.2 ⟨hign, rfl⟩⟩
    | true => exact .inr ⟨_, runOp2_eq_refused.2 ⟨hign, rfl⟩⟩
  | immediate rel f => exact .inl ⟨_, rfl⟩
  | unassigned => exact .inr ⟨_, rfl⟩

/-- Only RESERVED_E is refused where the bits that OP1 and OP2 do not look at are ignored. -/
theorem exec_refused_of_ignore {i : Instr} {e : Refusal} (h : s.cfg.opIrBits = .ignore)
    (hexec : exec i s = .refused e) : ∃ bits, i = .reservedE bits := by
  cases i with
  | reservedE bits => exact ⟨bits, rfl⟩
  | op1 ign m | nop ign | cla ign | cll ign | not ign | inc ign | cpl ign
  | rbl ign | rbr ign | rnl ign | rnr ign
  | neg ign | ing ign | sbl ign | sbr ign | snl ign | snr ign =>
    cases (runOp1_of_ignore h ign _).symm.trans hexec
  | op2 ign m | nop2 ign | sna ign | sza ign | ssl ign | skip ign | snn ign | snz ign | scl ign
  | cla2 ign | cli ign | sti ign | snp ign | spa ign =>
    cases (runOp2_of_ignore h ign _).symm.trans hexec
  | lia ign rel f | li ign f => cases hexec
  | trap ind rel f | iot ind rel f | load ind rel f | store ind rel f | inp ind rel f
  | out ind rel f | jmp ind rel f | jsr ind rel f | add ind rel f | and ind rel f | or ind rel f
  | xor ind rel f | ret | rtt => exact absurd hexec (settle_ne_refused _ e)

/-- Where every address is RAM nothing keeps the boundary of an instruction from going on. -/
theorem step_next_of_exec_next {i : Instr} {u : State} (h : s.cfg.memMap = [])
    (hdecode : decode (s.mem.word s.pc) = .ok i) (hexec : exec i (fetched s) = .next u) :
    ∃ t, step s = .next t := by
  have hcfg : u.cfg = s.cfg := (exec_storesOnly hexec).cfg_eq
  have hacc : accepts isrretSlot u = true := accepts_of_all_ram (hcfg ▸ h)
  obtain ⟨t, hbound⟩ := boundary_of_accepts s.i hacc
  exact ⟨t, step_eq_next.2 ⟨i, u, readable_of_all_ram h, hdecode, hexec, hbound⟩⟩

/-- Where every address is RAM a step goes on or is refused. -/
theorem step_next_or_refused (h : s.cfg.memMap = []) :
    (∃ t, step s = .next t) ∨ ∃ e, step s = .refused e := by
  have hread : readable s.pc s = true := readable_of_all_ram h
  cases hdecode : decode (s.mem.word s.pc) with
  | error e => exact .inr ⟨_, (stepStopsWithoutAnInstruction s).2 e hread hdecode⟩
  | ok i =>
    obtain ⟨u, hexec⟩ | ⟨e, hexec⟩ := (exec_form i).next_or_refused (s := fetched s) h
    · exact .inl (step_next_of_exec_next h hdecode hexec)
    · exact .inr ⟨e, step_of_exec_refused hread hdecode hexec⟩

end

theorem opcodeOf_of_decode_reservedE {w : Word} {bits : BitVec 12}
    (h : decode w = .ok (.reservedE bits)) : opcodeOf w = 0xE#4 := by
  rw [← encode_of_decode h]
  exact BitVec.extractLsb'_append_eq_left

end Sys2Proof.Machine

namespace Sys2Proof.Safety

open Sys2Proof.Machine

/-- Settles O19: RET and RTT jump through words 0000 and 0001. -/
theorem retAndRttResults : Obligations.RetAndRttResults :=
  ⟨decode_encode .ret, decode_encode .rtt, fun _ =>
    ⟨jump_through_slot rfl (by decide), jump_through_slot rfl (by decide)⟩⟩

/-- Settles O40: with an interrupt buffered and its slot writable, the boundary is the entry. -/
theorem interruptEntrySequence : Obligations.InterruptEntrySequence := fun _ hirq hacc =>
  interruptEntry_eq_ok.2 (.inl ⟨hirq, hacc, rfl⟩)

/-- Settles O41: the instruction buffers no interrupt of its own, so the boundary enters exactly what
it notices in the window. -/
theorem interruptWindow : Obligations.InterruptWindow := by
  intro s u i hread hdecode hexec hirq
  have hpending : u.irqPending = false := (exec_within hexec).irqPending_eq.trans hirq
  have hcfg : u.cfg = s.cfg := (exec_storesOnly hexec).cfg_eq
  refine ⟨fun hreq hi hacc => ?_, fun hnone => ?_⟩
  · have hwindow : ((s.i || u.i) && requestPresent u) = true := by simpa [hreq] using hi
    exact step_eq_next.2 ⟨i, u, hread, hdecode, hexec,
      boundary_of_noticed hwindow ((accepts_congr _ hcfg).trans hacc)⟩
  · have hnothing : ((s.i || u.i) && requestPresent u) = false := by
      obtain hreq | ⟨hs, hu⟩ := hnone
      · rw [hreq, Bool.and_false]
      · rw [hs, hu, Bool.or_self, Bool.false_and]
    exact step_eq_next.2 ⟨i, u, hread, hdecode, hexec, boundary_of_not_noticed hpending hnothing⟩

/-- Settles O42: the slot holds the PC that the entry saved, and the jump through it touches none of
A, L and I. -/
theorem returnFromInterruptResumes : Obligations.ReturnFromInterruptResumes := by
  intro s hram
  have hread : readable isrretSlot (enterIsr s) = true := readable_of_accepts (accepts_of_ram hram)
  refine ⟨_, jump_through_slot (slot := isrretSlot) rfl (by decide) hread, ?_, rfl, rfl, rfl⟩
  calc (enterIsr s).mem.word isrretSlot
    _ = (s.mem.write isrretSlot s.pc).word isrretSlot :=
      congrArg (·.word isrretSlot) (pokeMem_ram s.pc s.mem hram)
    _ = s.pc := Memory.word_write_same ..

/-- Settles O53: with every access meaningful the instruction goes on or is refused, and only
RESERVED_E is refused. -/
theorem everyMeaningfulWordRuns : Obligations.EveryMeaningfulWordRuns := by
  intro s hram
  refine ⟨fun r hfault => ?_, fun hignore i hdecode hop => ?_⟩
  · obtain ⟨t, hstep⟩ | ⟨e, hstep⟩ := step_next_or_refused hram <;> cases hfault.symm.trans hstep
  · obtain ⟨u, hexec⟩ | ⟨e, hexec⟩ := (exec_form i).next_or_refused (s := fetched s) hram
    · exact step_next_of_exec_next hram hdecode hexec
    · obtain ⟨bits, rfl⟩ := exec_refused_of_ignore (s := fetched s) hignore hexec
      exact absurd (opcodeOf_of_decode_reservedE hdecode) hop

end Sys2Proof.Safety

/-! ## The self-jump and the end of a run -/

namespace Sys2Proof.Safety

open Sys2Proof.Machine

section
variable {s t : State} {rel : Bool} {f : Field}

/-- An operand is assembled from the field, PC and `PAGE_SOURCE` (40_addressing_modes.md R110). -/
theorem opnd_congr (hpc : t.pc = s.pc) (hcfg : t.cfg = s.cfg) : opnd rel f t = opnd rel f s := by
  simp only [opnd, pageOf, instructionAddress, hpc, hcfg]

/-- A self-jump is a word at PC that can be fetched and decodes to a direct JMP to PC. -/
theorem atSelfJump_iff :
    atSelfJump s = true ↔ readable s.pc s = true ∧
      ∃ rel f, decode (s.mem.word s.pc) = .ok (.jmp false rel f) ∧
        opnd rel f (fetched s) = s.pc := by
  cases hread : readable s.pc s with
  | false => simp [atSelfJump, fetch_of_not_readable hread]
  | true =>
    have hfetch : fetch s = .ok (fetched s) := fetch_of_readable hread
    simp only [atSelfJump, hfetch, true_and]
    constructor
    · intro h
      split at h
      · next rel f hdecode => exact ⟨rel, f, hdecode, of_decide_eq_true h⟩
      · cases h
    · rintro ⟨rel, f, hdecode, hopnd⟩
      have hir : decode (fetched s).ir = .ok (.jmp false rel f) := hdecode
      simp only [hir, hopnd, decide_true]

/-- Whether the machine stands at a self-jump depends on PC, memory and the parameters. -/
theorem atSelfJump_of_eq (hpc : t.pc = s.pc) (hmem : t.mem = s.mem) (hcfg : t.cfg = s.cfg)
    (h : atSelfJump s = true) : atSelfJump t = true := by
  obtain ⟨hread, rel, f, hdecode, hopnd⟩ := atSelfJump_iff.1 h
  have hfetched : opnd rel f (fetched t) = opnd rel f (fetched s) :=
    opnd_congr (congrArg (· + 1#16) hpc) hcfg
  refine atSelfJump_iff.2 ⟨?_, rel, f, ?_, ?_⟩
  · rw [hpc, readable_congr _ hcfg, hread]
  · rw [hpc, hmem, hdecode]
  · rw [hfetched, hopnd, hpc]

theorem ended_selfJump_pair : ended .selfJump [t, s] = (atSelfJump s && decide (t.pc = s.pc)) := rfl

/-- A direct jump changes PC and nothing else (44_flow_control.md R161). -/
theorem exec_jmp_direct (rel : Bool) (f : Field) (s : State) :
    exec (.jmp false rel f) s = .next { s with pc := opnd rel f s } := by
  have haddr : addressable false rel f s := ⟨by simp, by simp [autoindexed]⟩
  exact jump_next haddr

/-- The state in which the boundary of a self-jump begins: PC is back at the jump. -/
def afterSelfJump (s : State) : State := { s with ir := s.mem.word s.pc, mar := s.pc }

theorem exec_selfJump (h : opnd rel f (fetched s) = s.pc) :
    exec (.jmp false rel f) (fetched s) = .next (afterSelfJump s) := by
  rw [exec_jmp_direct, h]
  rfl

end

/-- Settles O58: the jump puts PC back, and the boundary leaves it there or enters the routine at
another address. -/
theorem selfJumpStays : Obligations.SelfJumpStays := by
  intro s hself hirq
  obtain ⟨hread, rel, f, hdecode, hopnd⟩ := atSelfJump_iff.1 hself
  obtain ⟨henter, hquiet⟩ :=
    interruptWindow s (afterSelfJump s) _ hread hdecode (exec_selfJump hopnd) hirq
  refine ⟨fun hnone => ?_, fun hi hreq hacc hpc => ?_⟩
  · have hstep := hquiet (hnone.symm.imp id fun hi => ⟨hi, hi⟩)
    refine ⟨_, hstep, rfl, rfl, rfl, rfl, rfl, rfl, hirq, rfl,
      atSelfJump_of_eq (s := s) rfl rfl rfl hself, ?_⟩
    rw [ended_selfJump_pair, hself]
    exact decide_eq_true rfl
  · refine ⟨_, henter hreq (.inl hi) hacc, rfl, ?_⟩
    rw [ended_selfJump_pair, decide_eq_false (Ne.symm hpc), Bool.and_false]

end Sys2Proof.Safety

/-! ## Cycle counts (70_reset_and_hazards.md R276) -/

namespace Sys2Proof.Machine

/-- The cycles of a memory reference are one of the three counts of its row. -/
theorem modeCycles_le {d n a k : Nat} (hd : d ≤ k) (hn : n ≤ k) (ha : a ≤ k) (ind rel : Bool)
    (f : Field) (s : State) : modeCycles d n a ind rel f s ≤ k := by
  cases ind with
  | false => exact hd
  | true =>
    show (if autoindexed true rel f s then a else n) ≤ k
    split
    · exact ha
    · exact hn

/-- Only RESERVED_E has no count, and 15 is the largest one. -/
theorem cycles_le {i : Instr} (hi : ∀ bits, i ≠ .reservedE bits) (s : State) :
    ∃ n, cycles i s = some n ∧ n ≤ 15 := by
  cases i with
  | trap ind rel f | iot ind rel f | load ind rel f | store ind rel f | inp ind rel f
  | out ind rel f | jmp ind rel f | jsr ind rel f | add ind rel f | and ind rel f | or ind rel f
  | xor ind rel f =>
    exact ⟨_, rfl, modeCycles_le (by decide) (by decide) (by decide) ind rel f s⟩
  | reservedE bits => exact absurd rfl (hi bits)
  | _ => exact ⟨_, rfl, by decide⟩

theorem cycles_nameOp1 (ign : BitVec 2) (m : Op1Bits) (s : State) :
    cycles (nameOp1 ign m) s = some 11 := by
  unfold nameOp1
  split <;> rfl

theorem cycles_nameOp2 (ign : BitVec 2) (m : Op2Bits) (s : State) :
    cycles (nameOp2 ign m) s = some 12 := by
  unfold nameOp2
  split <;> rfl

theorem cycles_nameLia (ign rel : Bool) (f : Field) (s : State) :
    cycles (nameLia ign rel f) s = some 4 := by
  cases rel <;> rfl

section
variable {w : Word} {i : Instr} (s : State)

theorem cycles_of_decodeOp1 (h : decodeOp1 w = .ok i) : cycles i s = some 11 := by
  unfold decodeOp1 at h
  split at h
  · cases h
  · cases h
    exact cycles_nameOp1 ..

theorem cycles_of_decodeOp2 (h : decodeOp2 w = .ok i) : cycles i s = some 12 := by
  unfold decodeOp2 at h
  split at h
  · cases h
  · cases h
    exact cycles_nameOp2 ..

end

/-- Settles O59: the memory references cost what their rows say, and the words of the other opcodes
cost their opcode's one count under every name. -/
theorem cycleCounts : Obligations.CycleCounts := by
  refine ⟨fun i s hi => cycles_le hi s, fun rel f s p hp => ?_, fun ign s => ⟨rfl, rfl, rfl⟩,
    fun w i s hdecode => ⟨fun hop => ?_, fun hop => ?_, fun hop => ?_, fun hop => ?_⟩⟩
  · simp only [List.mem_cons, List.not_mem_nil, or_false] at hp
    rcases hp with rfl | rfl | rfl | rfl | rfl | rfl | rfl | rfl | rfl | rfl | rfl | rfl <;>
      exact ⟨rfl, rfl⟩
  · exact cycles_of_decodeOp1 s (decode_of_opcodeOf_op1 hop ▸ hdecode)
  · exact cycles_of_decodeOp2 s (decode_of_opcodeOf_op2 hop ▸ hdecode)
  · cases (decode_of_opcodeOf_reservedE hop).symm.trans hdecode
    rfl
  · cases (decode_of_opcodeOf_lia hop).symm.trans hdecode
    exact cycles_nameLia ..

end Sys2Proof.Machine
